-- ==== Sys2Proof/Word.lean ====
section
/-! DEFINITION. The word types of ESLC-FPHD (00_scope.md R7): every value is unsigned. -/

namespace Sys2Proof

/-- A byte of a frame, or an 8-bit register field. -/
abbrev Byte := BitVec 8

/-- A 32-bit register-port value (20_memory.md R46). -/
abbrev Word := BitVec 32

end Sys2Proof
end

