-- ==== Sys2Proof/Config.lean ====
section
/-! DEFINITION. The implementation parameters of 00_scope.md R6. The two OPEN ones and the unspecified bytes
of FRAME_BUF are constants with no body: nothing can be proved about their values. -/

namespace Sys2Proof

/-- The two readings of 'source address bytes in reverse order' (44_segment_nonce.md R174). -/
inductive AddrOrder where
  /-- the source address bytes as they stood on the wire -/
  | wire
  /-- the decoded byte view, most significant byte first -/
  | decoded
  deriving DecidableEq, Repr, Inhabited

/-- P_BUF_BYTES (R6): the size of FRAME_BUF. -/
@[simp] abbrev Config.bufBytes : Nat := 256

/-- P_BCAST_PAN (R6). -/
@[simp] abbrev Config.bcastPan : BitVec 16 := 0xFFFF#16

/-- P_BCAST_SHORT (R6). -/
@[simp] abbrev Config.bcastShort : BitVec 16 := 0xFFFF#16

/-- P_NONCE_PAD, OPEN (R6, 92_eei_decisions.md D16): the 13th nonce byte. DESIGN CHOICE: free value, log entry 3. -/
opaque Config.noncePad : Byte

/-- P_NONCE_ADDR_ORDER, OPEN (R6, 92_eei_decisions.md D17). DESIGN CHOICE: free value, log entry 4. -/
opaque Config.nonceAddrOrder : AddrOrder

/-- What a byte of FRAME_BUF that no host write has set since reset number `epoch` holds: UNSPECIFIED
(10_state.md R12, 70_reset_and_hazards.md R232: 'let each such byte be a free draw. It must not assume 0').
DESIGN CHOICE: free value, log entry 2. -/
opaque Config.unwrittenByte : (epoch : Nat) → (address : Nat) → Byte

end Sys2Proof
end

