-- ==== Sys2Proof/Syntax.lean ====
section
/-! DEFINITION. The syntax: one constructor of `Instr` per row of spec/opcode_table.json, and the words
(`Code`) the four encoding spaces of 30_encoding.md are written in. -/

namespace Sys2Proof

/-- The kinds of an address and the legal addressing modes (10_state.md R23, 30_encoding.md R65);
code 1, reserved, is no kind. -/
inductive AddrKind where
  | none
  | short
  | long
  deriving DecidableEq, Repr

/-- The commands a value written to CMD stands for (30_encoding.md R70). -/
inductive Command where
  | nop
  | parse
  | clear
  | undefined
  deriving DecidableEq, Repr

/-- The classes of a frame-control word that S_FC tells apart, in priority order (30_encoding.md R75, R64). -/
inductive FcClass where
  | rejReservedBit
  | rejSeqSuppression
  | rejIePresent
  | rejVersion1
  | rejVersion2
  | rejVersion3
  | rejDstModeReserved
  | rejSrcModeReserved
  | ftBeacon
  | ftData
  | ftAck
  | ftMacCommand
  | ftReserved
  | ftMultipurpose
  | ftFragment
  | ftExtended
  deriving DecidableEq, Repr

/-- The opcode table. `write` and `offset` of a refused transaction are TD[10] and TD[8:0]; `value` is the
32-bit value of a write; `fc` is the frame-control word a row of format FC16 was read from. -/
inductive Instr where
  -- CMD32
  | nop
  | parse
  | clear
  | cmdUndefined (code : Word)
  -- HOSTTD11
  | wrCmd (value : Word)
  | refusedMisalignedBit0 (write : Bool) (offset : BitVec 9)
  | refusedMisalignedBit1 (write : Bool) (offset : BitVec 9)
  | refusedByteReg (write : Bool) (offset : BitVec 9)
  | rd8 (offset : BitVec 8)
  | wr8 (offset : BitVec 8) (value : Word)
  | rd32Buf (offset : BitVec 8)
  | wr32Buf (offset : BitVec 8) (value : Word)
  | rd32Reg (offset : BitVec 9)
  | wr32Reg (offset : BitVec 9) (value : Word)
  -- FSM4
  | sIdle
  | sFc
  | sAck
  | sSeq
  | sDst
  | sSrcPan
  | sSrc
  | sBound
  | sFilter
  | sSegment
  | sNonce
  | sCcmWait
  | sDone
  -- FC16, the rows of S_FC
  | rejReservedBit (fc : BitVec 16)
  | rejSeqSuppression (fc : BitVec 16)
  | rejIePresent (fc : BitVec 16)
  | rejVersion1 (fc : BitVec 16)
  | rejVersion2 (fc : BitVec 16)
  | rejVersion3 (fc : BitVec 16)
  | rejDstModeReserved (fc : BitVec 16)
  | rejSrcModeReserved (fc : BitVec 16)
  | ftBeacon (fc : BitVec 16)
  | ftData (fc : BitVec 16)
  | ftAck (fc : BitVec 16)
  | ftMacCommand (fc : BitVec 16)
  | ftReserved (fc : BitVec 16)
  | ftMultipurpose (fc : BitVec 16)
  | ftFragment (fc : BitVec 16)
  | ftExtended (fc : BitVec 16)
  -- FC16, the rows of S_DST
  | damNone (fc : BitVec 16)
  | damShort (fc : BitVec 16)
  | damLong (fc : BitVec 16)
  -- FC16, the rows of S_SRC
  | samNone (fc : BitVec 16)
  | samShort (fc : BitVec 16)
  | samLong (fc : BitVec 16)
  deriving DecidableEq, Repr

/-- The encoding spaces: the table's four formats, FC16 taken apart by the FSM state that reads the word
(log entry 11). -/
inductive Format where
  | cmd32
  | td11
  | fsm4
  | fc16
  | dst16
  | src16
  deriving DecidableEq, Repr

/-- An instruction's words as the hardware holds them: a value written to CMD, a host transaction descriptor
with its value (30_encoding.md R82), the STATE register (R71), or the frame-control word (R62) as S_FC, S_DST
or S_SRC reads it. -/
inductive Code where
  | cmd32 (w : Word)
  | td11 (td : BitVec 11) (value : Word)
  | fsm4 (w : BitVec 4)
  | fc16 (w : BitVec 16)
  | dst16 (w : BitVec 16)
  | src16 (w : BitVec 16)
  deriving DecidableEq, Repr

end Sys2Proof
end

