-- ==== Sys2Proof/WellFormed.lean ====
section
/-! DEFINITION. Which terms of `Instr` stand for words of the opcode table: the row's mask and match
(spec/opcode_table.json), and none of the rows before it where the first match wins (30_encoding.md R82, R75). -/

namespace Sys2Proof

/-- Bits 1:0 of a register-port offset are 0 (20_memory.md R46). -/
def alignedOffset (offset : Nat) : Bool := offset % 4 == 0

/-- Bits hi:lo of a frame-control word hold the value: one 'fixed' entry of the opcode table. -/
def fcHas (fc : BitVec 16) (hi lo value : Nat) : Bool := (fc.extractLsb' lo (hi + 1 - lo)).toNat == value

/-- The first `n` of the rejections of 30_encoding.md R75 do not apply to the word; the first match gives the reason. -/
def fcPasses (fc : BitVec 16) (n : Nat) : Bool :=
  (n == 0 || !fcHas fc 7 7 1) && (decide (n ≤ 1) || !fcHas fc 8 8 1) && (decide (n ≤ 2) || !fcHas fc 9 9 1) &&
  (decide (n ≤ 3) || fcHas fc 13 12 0) && (decide (n ≤ 4) || !fcHas fc 11 10 1) &&
  (decide (n ≤ 5) || !fcHas fc 15 14 1)

/-- A term stands for a word of its row. -/
def Instr.wellFormed : Instr → Bool
  | .nop => true
  | .parse => true
  | .clear => true
  | .cmdUndefined code => code != 0#32 && code != 1#32 && code != 2#32
  | .wrCmd _ => true
  | .refusedMisalignedBit0 _ offset => offset.getLsbD 0
  | .refusedMisalignedBit1 _ offset => !offset.getLsbD 0 && offset.getLsbD 1
  | .refusedByteReg _ offset => offset.getLsbD 8
  | .rd8 _ => true
  | .wr8 _ _ => true
  | .rd32Buf offset => alignedOffset offset.toNat
  | .wr32Buf offset _ => alignedOffset offset.toNat
  | .rd32Reg offset => offset.getLsbD 8 && alignedOffset offset.toNat
  | .wr32Reg offset _ => offset.getLsbD 8 && alignedOffset offset.toNat && offset != 0x10C#9
  | .sIdle => true
  | .sFc => true
  | .sAck => true
  | .sSeq => true
  | .sDst => true
  | .sSrcPan => true
  | .sSrc => true
  | .sBound => true
  | .sFilter => true
  | .sSegment => true
  | .sNonce => true
  | .sCcmWait => true
  | .sDone => true
  | .rejReservedBit fc => fcHas fc 7 7 1
  | .rejSeqSuppression fc => fcPasses fc 1 && fcHas fc 8 8 1
  | .rejIePresent fc => fcPasses fc 2 && fcHas fc 9 9 1
  | .rejVersion1 fc => fcPasses fc 3 && fcHas fc 13 12 1
  | .rejVersion2 fc => fcPasses fc 3 && fcHas fc 13 12 2
  | .rejVersion3 fc => fcPasses fc 3 && fcHas fc 13 12 3
  | .rejDstModeReserved fc => fcPasses fc 4 && fcHas fc 11 10 1
  | .rejSrcModeReserved fc => fcPasses fc 5 && fcHas fc 15 14 1
  | .ftBeacon fc => fcPasses fc 6 && fcHas fc 2 0 0
  | .ftData fc => fcPasses fc 6 && fcHas fc 2 0 1
  | .ftAck fc => fcPasses fc 6 && fcHas fc 2 0 2
  | .ftMacCommand fc => fcPasses fc 6 && fcHas fc 2 0 3
  | .ftReserved fc => fcPasses fc 6 && fcHas fc 2 0 4
  | .ftMultipurpose fc => fcPasses fc 6 && fcHas fc 2 0 5
  | .ftFragment fc => fcPasses fc 6 && fcHas fc 2 0 6
  | .ftExtended fc => fcPasses fc 6 && fcHas fc 2 0 7
  | .damNone fc => fcHas fc 11 10 0
  | .damShort fc => fcHas fc 11 10 2
  | .damLong fc => fcHas fc 11 10 3
  | .samNone fc => fcHas fc 15 14 0
  | .samShort fc => fcHas fc 15 14 2
  | .samLong fc => fcHas fc 15 14 3

end Sys2Proof
end

