-- ==== Sys2Proof/Decode.lean ====
section
/-! DEFINITION. The decoder and the encoder of the four encoding spaces (30_encoding.md). The decoder is total:
what it does not read it rejects by name (`DecodeError`). -/

namespace Sys2Proof

/-! ## Fields of the frame-control word (30_encoding.md R62) -/

def fcFT (fc : BitVec 16) : BitVec 3 := fc.extractLsb' 0 3
def fcSEC (fc : BitVec 16) : BitVec 1 := fc.extractLsb' 3 1
def fcPEND (fc : BitVec 16) : BitVec 1 := fc.extractLsb' 4 1
def fcAR (fc : BitVec 16) : BitVec 1 := fc.extractLsb' 5 1
def fcPANC (fc : BitVec 16) : BitVec 1 := fc.extractLsb' 6 1
def fcRSV (fc : BitVec 16) : BitVec 1 := fc.extractLsb' 7 1
def fcSNS (fc : BitVec 16) : BitVec 1 := fc.extractLsb' 8 1
def fcIEP (fc : BitVec 16) : BitVec 1 := fc.extractLsb' 9 1
def fcDAM (fc : BitVec 16) : BitVec 2 := fc.extractLsb' 10 2
def fcFV (fc : BitVec 16) : BitVec 2 := fc.extractLsb' 12 2
def fcSAM (fc : BitVec 16) : BitVec 2 := fc.extractLsb' 14 2

/-- The eleven fields of a frame-control word, each at its own width (30_encoding.md R62). -/
structure FrameControl where
  ft : BitVec 3
  sec : BitVec 1
  pend : BitVec 1
  ar : BitVec 1
  panc : BitVec 1
  rsv : BitVec 1
  sns : BitVec 1
  iep : BitVec 1
  dam : BitVec 2
  fv : BitVec 2
  sam : BitVec 2
  deriving DecidableEq, Repr

/-- The slices of R62. -/
def decodeFrameControl (fc : BitVec 16) : FrameControl :=
  { ft := fcFT fc, sec := fcSEC fc, pend := fcPEND fc, ar := fcAR fc, panc := fcPANC fc, rsv := fcRSV fc,
    sns := fcSNS fc, iep := fcIEP fc, dam := fcDAM fc, fv := fcFV fc, sam := fcSAM fc }

/-- The re-encoding of 30_encoding.md R63. -/
def encodeFrameControl (f : FrameControl) : BitVec 16 :=
  f.ft.setWidth 16 ||| (f.sec.setWidth 16 <<< 3) ||| (f.pend.setWidth 16 <<< 4) ||| (f.ar.setWidth 16 <<< 5) |||
  (f.panc.setWidth 16 <<< 6) ||| (f.rsv.setWidth 16 <<< 7) ||| (f.sns.setWidth 16 <<< 8) |||
  (f.iep.setWidth 16 <<< 9) ||| (f.dam.setWidth 16 <<< 10) ||| (f.fv.setWidth 16 <<< 12) |||
  (f.sam.setWidth 16 <<< 14)

/-! ## FSM state codes (30_encoding.md R71) -/

@[simp] abbrev FsmCode.idle : BitVec 4 := 0x0#4
@[simp] abbrev FsmCode.fc : BitVec 4 := 0x1#4
@[simp] abbrev FsmCode.ack : BitVec 4 := 0x2#4
@[simp] abbrev FsmCode.seq : BitVec 4 := 0x3#4
@[simp] abbrev FsmCode.dst : BitVec 4 := 0x4#4
@[simp] abbrev FsmCode.srcPan : BitVec 4 := 0x5#4
@[simp] abbrev FsmCode.src : BitVec 4 := 0x6#4
@[simp] abbrev FsmCode.bound : BitVec 4 := 0x7#4
@[simp] abbrev FsmCode.filter : BitVec 4 := 0x8#4
@[simp] abbrev FsmCode.segment : BitVec 4 := 0x9#4
@[simp] abbrev FsmCode.nonce : BitVec 4 := 0xA#4
@[simp] abbrev FsmCode.ccmWait : BitVec 4 := 0xB#4
@[simp] abbrev FsmCode.done : BitVec 4 := 0xF#4

/-! ## Classifiers -/

/-- The command a 32-bit value written to CMD stands for; the whole value is compared (R70, R96). -/
def classifyCmd (value : Word) : Command :=
  if value = 0#32 then .nop
  else if value = 1#32 then .parse
  else if value = 2#32 then .clear
  else .undefined

/-- The class of a frame-control word: the first check that applies, in the order of 41_frame_control.md R116,
else the frame type (R119). -/
def classifyFc (fc : BitVec 16) : FcClass :=
  if fcRSV fc = 1#1 then .rejReservedBit
  else if fcSNS fc = 1#1 then .rejSeqSuppression
  else if fcIEP fc = 1#1 then .rejIePresent
  else if fcFV fc = 1#2 then .rejVersion1
  else if fcFV fc = 2#2 then .rejVersion2
  else if fcFV fc = 3#2 then .rejVersion3
  else if fcDAM fc = 1#2 then .rejDstModeReserved
  else if fcSAM fc = 1#2 then .rejSrcModeReserved
  else if fcFT fc = 0#3 then .ftBeacon
  else if fcFT fc = 1#3 then .ftData
  else if fcFT fc = 2#3 then .ftAck
  else if fcFT fc = 3#3 then .ftMacCommand
  else if fcFT fc = 4#3 then .ftReserved
  else if fcFT fc = 5#3 then .ftMultipurpose
  else if fcFT fc = 6#3 then .ftFragment
  else .ftExtended

/-- An addressing-mode code (30_encoding.md R65); code 1 is reserved and stands for no kind. -/
def classifyMode (mode : BitVec 2) : Option AddrKind :=
  if mode = 0#2 then some .none
  else if mode = 2#2 then some .short
  else if mode = 3#2 then some .long
  else none

/-! ## The decoder -/

/-- Why bytes or a word stand for no row of the opcode table. -/
inductive DecodeError where
  /-- the bytes end before the word does -/
  | tooFewBytes
  /-- bits above the 11 of a transaction descriptor, or above the 4 of a state code, are set -/
  | bitsAboveTheWord
  /-- an FSM state code 0xC to 0xE, never entered (30_encoding.md R71) -/
  | stateNeverEntered
  /-- addressing mode 1, reserved (30_encoding.md R65), where only S_FC may see it -/
  | reservedMode
  deriving DecidableEq, Repr

/-- A value written to CMD (R70). -/
def decodeCmd (value : Word) : Instr :=
  match classifyCmd value with
  | .nop => .nop
  | .parse => .parse
  | .clear => .clear
  | .undefined => .cmdUndefined value

/-- A host transaction descriptor and its value (30_encoding.md R82, first match wins). -/
def decodeTd (td : BitVec 11) (value : Word) : Instr :=
  let write := td.getLsbD 10
  let wide := td.getLsbD 9
  let high := td.getLsbD 8
  let offset := td.setWidth 9
  if td = 0x70C#11 then .wrCmd value
  else if wide && td.getLsbD 0 then .refusedMisalignedBit0 write offset
  else if wide && td.getLsbD 1 then .refusedMisalignedBit1 write offset
  else if !wide && high then .refusedByteReg write offset
  else if !write && !wide then .rd8 (td.setWidth 8)
  else if write && !wide then .wr8 (td.setWidth 8) value
  else if !write && !high then .rd32Buf (td.setWidth 8)
  else if write && !high then .wr32Buf (td.setWidth 8) value
  else if !write then .rd32Reg offset
  else .wr32Reg offset value

/-- The contents of the STATE register (30_encoding.md R71). -/
def decodeFsm (w : BitVec 4) : Except DecodeError Instr :=
  match w with
  | 0x0#4 => .ok .sIdle
  | 0x1#4 => .ok .sFc
  | 0x2#4 => .ok .sAck
  | 0x3#4 => .ok .sSeq
  | 0x4#4 => .ok .sDst
  | 0x5#4 => .ok .sSrcPan
  | 0x6#4 => .ok .sSrc
  | 0x7#4 => .ok .sBound
  | 0x8#4 => .ok .sFilter
  | 0x9#4 => .ok .sSegment
  | 0xA#4 => .ok .sNonce
  | 0xB#4 => .ok .sCcmWait
  | 0xF#4 => .ok .sDone
  | _ => .error .stateNeverEntered

/-- The FC16 row of a class, with the word it was read from. -/
def FcClass.row (c : FcClass) (fc : BitVec 16) : Instr :=
  match c with
  | .rejReservedBit => .rejReservedBit fc
  | .rejSeqSuppression => .rejSeqSuppression fc
  | .rejIePresent => .rejIePresent fc
  | .rejVersion1 => .rejVersion1 fc
  | .rejVersion2 => .rejVersion2 fc
  | .rejVersion3 => .rejVersion3 fc
  | .rejDstModeReserved => .rejDstModeReserved fc
  | .rejSrcModeReserved => .rejSrcModeReserved fc
  | .ftBeacon => .ftBeacon fc
  | .ftData => .ftData fc
  | .ftAck => .ftAck fc
  | .ftMacCommand => .ftMacCommand fc
  | .ftReserved => .ftReserved fc
  | .ftMultipurpose => .ftMultipurpose fc
  | .ftFragment => .ftFragment fc
  | .ftExtended => .ftExtended fc

/-- The FC16 row of a frame-control word as S_FC reads it (R75, R64, R116). -/
def decodeFc (fc : BitVec 16) : Instr := (classifyFc fc).row fc

/-- The DAM row of a frame-control word as S_DST reads it (R65, R66). -/
def decodeDst (fc : BitVec 16) : Except DecodeError Instr :=
  match classifyMode (fcDAM fc) with
  | some .none => .ok (.damNone fc)
  | some .short => .ok (.damShort fc)
  | some .long => .ok (.damLong fc)
  | none => .error .reservedMode

/-- The SAM row of a frame-control word as S_SRC reads it (R65, R66). -/
def decodeSrc (fc : BitVec 16) : Except DecodeError Instr :=
  match classifyMode (fcSAM fc) with
  | some .none => .ok (.samNone fc)
  | some .short => .ok (.samShort fc)
  | some .long => .ok (.samLong fc)
  | none => .error .reservedMode

/-- The instruction a code stands for. -/
def decode : Code → Except DecodeError Instr
  | .cmd32 w => .ok (decodeCmd w)
  | .td11 td value => .ok (decodeTd td value)
  | .fsm4 w => decodeFsm w
  | .fc16 w => .ok (decodeFc w)
  | .dst16 w => decodeDst w
  | .src16 w => decodeSrc w

/-! ## Words as bytes, the least significant first (20_memory.md R40, R44; log entry 18) -/

def word16 (b0 b1 : Byte) : BitVec 16 := b1 ++ b0

def word32 (b0 b1 b2 b3 : Byte) : Word := (b3 ++ b2) ++ (b1 ++ b0)

/-- Byte k of a word, byte 0 the least significant. -/
def wordByte {n : Nat} (w : BitVec n) (k : Nat) : Byte := w.extractLsb' (8 * k) 8

/-- A code from the front of a byte list, and the bytes after it. A transaction that writes carries its
32-bit value after the two descriptor bytes; one that reads carries none. -/
def readCode (f : Format) (bytes : List Byte) : Except DecodeError (Code × List Byte) :=
  match f, bytes with
  | .cmd32, b0 :: b1 :: b2 :: b3 :: rest => .ok (.cmd32 (word32 b0 b1 b2 b3), rest)
  | .td11, b0 :: b1 :: rest =>
    if b1.toNat < 8 then
      let td : BitVec 11 := (word16 b0 b1).setWidth 11
      if td.getLsbD 10 then
        match rest with
        | v0 :: v1 :: v2 :: v3 :: rest => .ok (.td11 td (word32 v0 v1 v2 v3), rest)
        | _ => .error .tooFewBytes
      else .ok (.td11 td 0#32, rest)
    else .error .bitsAboveTheWord
  | .fsm4, b0 :: rest => if b0.toNat < 16 then .ok (.fsm4 (b0.setWidth 4), rest) else .error .bitsAboveTheWord
  | .fc16, b0 :: b1 :: rest => .ok (.fc16 (word16 b0 b1), rest)
  | .dst16, b0 :: b1 :: rest => .ok (.dst16 (word16 b0 b1), rest)
  | .src16, b0 :: b1 :: rest => .ok (.src16 (word16 b0 b1), rest)
  | _, _ => .error .tooFewBytes

/-- The decoder on bytes. -/
def decodeBytes (f : Format) (bytes : List Byte) : Except DecodeError (Instr × List Byte) :=
  match readCode f bytes with
  | .error e => .error e
  | .ok (c, rest) =>
    match decode c with
    | .error e => .error e
    | .ok i => .ok (i, rest)

/-- Which encoding space a number of the opcode table is read in. The table's 11-bit descriptors and its
16-bit frame-control words share their numbers; the choice between them is log entry 10. -/
def tableFormat (nbits w : Nat) : Format :=
  if nbits ≤ 8 then .fsm4
  else if nbits ≤ 11 then .td11
  else if nbits ≤ 16 then
    if w = 0x800 ∨ w = 0xC00 then .dst16
    else if w = 0x8000 ∨ w = 0xC000 then .src16
    else if w = 0x80 ∨ (1 ≤ w ∧ w ≤ 7) ∨ 0x800 ≤ w then .fc16
    else .td11
  else .cmd32

/-- The `n` low bytes of a number, the least significant first. -/
def bytesOfNat : Nat → Nat → List Byte
  | 0, _ => []
  | n + 1, w => BitVec.ofNat 8 w :: bytesOfNat n (w / 256)

/-- The bytes a table number is laid out in: the whole word, and zeros for a transaction's value. -/
def tableBytes (nbits w : Nat) : List Byte := bytesOfNat ((nbits + 7) / 8) w ++ List.replicate 4 0#8

/-- The code a table number stands for. -/
def tableCode (nbits w : Nat) : Except DecodeError Code :=
  match readCode (tableFormat nbits w) (tableBytes nbits w) with
  | .ok (c, _) => .ok c
  | .error e => .error e

/-- The instruction the decoder reads from a number of the opcode table. -/
def decodeTableWord (nbits w : Nat) : Option Instr :=
  match decodeBytes (tableFormat nbits w) (tableBytes nbits w) with
  | .ok (i, _) => some i
  | .error _ => none

/-! ## The encoder -/

/-- A descriptor: TD[10] write, TD[9] 32-bit access, TD[8:0] offset (30_encoding.md R82). -/
def tdOf (write wide : Bool) (offset : BitVec 9) : BitVec 11 :=
  (BitVec.ofBool write ++ BitVec.ofBool wide) ++ offset

/-- The words of an instruction. -/
def encode : Instr → Code
  | .nop => .cmd32 0x00000000#32
  | .parse => .cmd32 0x00000001#32
  | .clear => .cmd32 0x00000002#32
  | .cmdUndefined code => .cmd32 code
  | .wrCmd value => .td11 0x70C#11 value
  | .refusedMisalignedBit0 write offset => .td11 (tdOf write true offset) 0#32
  | .refusedMisalignedBit1 write offset => .td11 (tdOf write true offset) 0#32
  | .refusedByteReg write offset => .td11 (tdOf write false offset) 0#32
  | .rd8 offset => .td11 (tdOf false false (offset.setWidth 9)) 0#32
  | .wr8 offset value => .td11 (tdOf true false (offset.setWidth 9)) value
  | .rd32Buf offset => .td11 (tdOf false true (offset.setWidth 9)) 0#32
  | .wr32Buf offset value => .td11 (tdOf true true (offset.setWidth 9)) value
  | .rd32Reg offset => .td11 (tdOf false true offset) 0#32
  | .wr32Reg offset value => .td11 (tdOf true true offset) value
  | .sIdle => .fsm4 0x0#4
  | .sFc => .fsm4 0x1#4
  | .sAck => .fsm4 0x2#4
  | .sSeq => .fsm4 0x3#4
  | .sDst => .fsm4 0x4#4
  | .sSrcPan => .fsm4 0x5#4
  | .sSrc => .fsm4 0x6#4
  | .sBound => .fsm4 0x7#4
  | .sFilter => .fsm4 0x8#4
  | .sSegment => .fsm4 0x9#4
  | .sNonce => .fsm4 0xA#4
  | .sCcmWait => .fsm4 0xB#4
  | .sDone => .fsm4 0xF#4
  | .rejReservedBit fc => .fc16 fc
  | .rejSeqSuppression fc => .fc16 fc
  | .rejIePresent fc => .fc16 fc
  | .rejVersion1 fc => .fc16 fc
  | .rejVersion2 fc => .fc16 fc
  | .rejVersion3 fc => .fc16 fc
  | .rejDstModeReserved fc => .fc16 fc
  | .rejSrcModeReserved fc => .fc16 fc
  | .ftBeacon fc => .fc16 fc
  | .ftData fc => .fc16 fc
  | .ftAck fc => .fc16 fc
  | .ftMacCommand fc => .fc16 fc
  | .ftReserved fc => .fc16 fc
  | .ftMultipurpose fc => .fc16 fc
  | .ftFragment fc => .fc16 fc
  | .ftExtended fc => .fc16 fc
  | .damNone fc => .dst16 fc
  | .damShort fc => .dst16 fc
  | .damLong fc => .dst16 fc
  | .samNone fc => .src16 fc
  | .samShort fc => .src16 fc
  | .samLong fc => .src16 fc

/-- The encoding space of a code. -/
def Code.format : Code → Format
  | .cmd32 _ => .cmd32
  | .td11 _ _ => .td11
  | .fsm4 _ => .fsm4
  | .fc16 _ => .fc16
  | .dst16 _ => .dst16
  | .src16 _ => .src16

/-- The bytes of a code; the inverse of `readCode`. -/
def Code.bytes : Code → List Byte
  | .cmd32 w => [wordByte w 0, wordByte w 1, wordByte w 2, wordByte w 3]
  | .td11 td value =>
    let d := td.setWidth 16
    [wordByte d 0, wordByte d 1] ++
      (if td.getLsbD 10 then [wordByte value 0, wordByte value 1, wordByte value 2, wordByte value 3] else [])
  | .fsm4 w => [w.setWidth 8]
  | .fc16 w => [wordByte w 0, wordByte w 1]
  | .dst16 w => [wordByte w 0, wordByte w 1]
  | .src16 w => [wordByte w 0, wordByte w 1]

end Sys2Proof
end

