-- ==== Sys2Proof/Machine/State.lean ====
section
/-! DEFINITION. The state of the block (10_state.md R12 to R36), the turns of the world outside, the reasons a
step can stop, and the state after reset (70_reset_and_hazards.md R230). -/

namespace Sys2Proof.Machine

/-- OUTCOME (30_encoding.md R72); codes 0x7 to 0xF are never produced. -/
inductive ParseOutcome where
  | none
  | okData
  | okAck
  | notDecoded
  | structuralError
  | filterMiss
  | authError
  deriving DecidableEq, Repr

/-- The result set of 10_state.md R31: the results of one parse. -/
structure Results where
  /-- STATUS.OUTCOME (R17) -/
  outcome : ParseOutcome
  /-- STATUS.REASON (R17, R73) -/
  reason : BitVec 8
  /-- STATUS.END_OFF (R17) -/
  endOff : BitVec 8
  /-- FC.FC_RAW (R18) -/
  fcRaw : BitVec 16
  /-- HDRINFO.FC_VALID (R19) -/
  fcValid : Bool
  /-- HDRINFO.SEQ (R19) -/
  seq : BitVec 8
  /-- HDRINFO.SEQ_VALID (R19) -/
  seqValid : Bool
  /-- PAN_ID (R20) -/
  panId : BitVec 16
  /-- HDRINFO.PAN_VALID (R19) -/
  panValid : Bool
  /-- HDRINFO.BCAST (R19) -/
  bcast : Bool
  /-- HDRINFO.DST_KIND (R19, R23) -/
  dstKind : AddrKind
  /-- DST_ADDR (R21) -/
  dstAddr : BitVec 64
  /-- HDRINFO.SRC_KIND (R19, R23) -/
  srcKind : AddrKind
  /-- SRC_ADDR (R22) -/
  srcAddr : BitVec 64
  /-- HDRINFO.HDR_LEN (R19) -/
  hdrLen : BitVec 8
  /-- HDRINFO.HDR_VALID (R19) -/
  hdrValid : Bool
  /-- SEG0.PAY_OFF (R24) -/
  payOff : BitVec 8
  /-- SEG0.PAY_LEN (R24) -/
  payLen : BitVec 8
  /-- SEG0.CT_LEN (R24) -/
  ctLen : BitVec 8
  /-- SEG0.AD_LEN (R24) -/
  adLen : BitVec 8
  /-- SEG1.TAG_OFF (R24) -/
  tagOff : BitVec 8
  /-- SEG1.CTR_OFF (R24) -/
  ctrOff : BitVec 8
  /-- FRAME_COUNTER (R25) -/
  frameCounter : BitVec 32
  /-- HDRINFO.SEG_VALID (R19) -/
  segValid : Bool
  /-- NONCE[0..12] (R26) -/
  nonce : Vector Byte 13
  /-- HDRINFO.NONCE_VALID (R19) -/
  nonceValid : Bool
  deriving DecidableEq, Repr

/-- Every field of the result set at its reset value (10_state.md R31, R37). -/
def Results.reset : Results :=
  { outcome := .none, reason := 0x00#8, endOff := 0#8, fcRaw := 0x0000#16, fcValid := false, seq := 0#8,
    seqValid := false, panId := 0x0000#16, panValid := false, bcast := false, dstKind := .none,
    dstAddr := 0#64, srcKind := .none, srcAddr := 0#64, hdrLen := 0#8, hdrValid := false, payOff := 0#8,
    payLen := 0#8, ctLen := 0#8, adLen := 0#8, tagOff := 0#8, ctrOff := 0#8, frameCounter := 0#32,
    segValid := false, nonce := Vector.replicate 13 0x00#8, nonceValid := false }

/-- What can happen next: one transition of the interleaving of 20_memory.md R52. -/
inductive Turn where
  /-- a register-port access: the descriptor of 30_encoding.md R82 and, for a write, its value -/
  | host (td : BitVec 11) (value : Word)
  /-- a register-port access of a width other than 8 or 32 bits (20_memory.md R46, R47; log entry 12) -/
  | otherWidth (write : Bool) (offset : BitVec 9)
  /-- the block takes its enabled step, if it has one (10_state.md R30) -/
  | block
  /-- the CCM engine's `ccm_done(auth_ok)` (44_segment_nonce.md R177) -/
  | engine (authOk : Bool)
  /-- reset (70_reset_and_hazards.md R230) -/
  | reset
  deriving DecidableEq, Repr

/-- The state. Fields of the result set (R31) stand in `res`. -/
structure State where
  /-- FRAME_BUF (R12): the bytes some host write has set since reset, addresses rising -/
  frameBuf : List Host.Cell
  /-- the MODEL's own: how many resets came before (names the unspecified bytes of FRAME_BUF, log entry 2) -/
  epoch : Nat
  /-- FRAME_LEN (R14) -/
  frameLen : BitVec 8
  /-- CFG_PAN (R13) -/
  cfgPan : BitVec 16
  /-- the MODEL's own: a host write has set CFG_PAN since reset (70_reset_and_hazards.md R234, log entry 19) -/
  cfgPanWritten : Bool
  /-- CTRL.IRQ_EN (R15) -/
  irqEn : Bool
  /-- STATUS.BUSY (R17) -/
  busy : Bool
  /-- STATUS.DONE (R17) -/
  done : Bool
  /-- STATUS.CCM_REQ and the output `ccm_req` (R17, R34) -/
  ccmReq : Bool
  /-- STATUS.STATE, the FSM state register (R28, R29, 30_encoding.md R71) -/
  state : BitVec 4
  /-- STATUS.WR_WHILE_BUSY (R17) -/
  wrWhileBusy : Bool
  /-- STATUS.CMD_WHILE_BUSY (R17) -/
  cmdWhileBusy : Bool
  /-- STATUS.BAD_CMD (R17) -/
  badCmd : Bool
  /-- STATUS.BUS_ERR (R17) -/
  busErr : Bool
  /-- OFF, the hidden byte cursor (R27, R35) -/
  off : BitVec 8
  /-- the result set (R31) -/
  res : Results
  /-- the inputs `ccm_done` and `ccm_auth_ok` as they stand in the turn being taken (R34, log entry 6) -/
  ccmDone : Option Bool
  /-- the MODEL's own: what the last host read returned (40_host_commands.md R90, log entry 5) -/
  rdata : Word
  /-- the MODEL's own: the turns the world outside still takes, first one first (log entry 1) -/
  turns : List Turn
  deriving DecidableEq, Repr

/-- The machine right after reset (70_reset_and_hazards.md R230; the model's own fields: log entry 13). -/
def State.reset : State :=
  { frameBuf := [], epoch := 0, frameLen := 0#8, cfgPan := 0x0000#16, cfgPanWritten := false, irqEn := false,
    busy := false, done := false, ccmReq := false, state := FsmCode.idle, wrWhileBusy := false, cmdWhileBusy := false,
    badCmd := false, busErr := false, off := 0#8, res := Results.reset, ccmDone := none, rdata := 0#32,
    turns := [] }

/-- Why the machine stops with a fault. -/
inductive Fault where
  /-- The FSM reads `count` bytes of FRAME_BUF from `address` on, and some of them lie at or beyond FRAME_LEN,
  outside the FSM's address space (20_memory.md, R48). Raised by S_SEQ, S_SEGMENT and S_NONCE; no state that meets
  the invariant raises it. SAFE: the model stops where the spec says no run goes (log entry 7). -/
  | readBeyondFrame (address count : Nat)
  deriving DecidableEq, Repr

/-- Why a step has no meaning. -/
inductive Refusal where
  /-- An instruction without a meaning; no arm of `exec` raises it. SAFE. -/
  | notModelled (mnemonic : String)
  /-- STATE holds a code 0xC to 0xE (30_encoding.md R71; 93_implementation_defined.md row 13: 'it must refuse any
  run that starts in them'). Raised by `step`. SAFE (log entry 9). -/
  | stateNeverEntered (code : BitVec 4)
  /-- S_DST finds DAM = 1 or S_SRC finds SAM = 1, which 'cannot occur here' (42_addressing.md R131, R137).
  Raised by S_DST and S_SRC; no state that meets the invariant raises it. SAFE (log entry 8). -/
  | reservedAddressingMode
  deriving DecidableEq, Repr

end Sys2Proof.Machine
end

