-- ==== Sys2Proof/Machine/Ops.lean ====
section
/-! DEFINITION. The shared operations: the frame buffer (10_state.md R12, 20_memory.md), the pseudocode primitives
of 00_scope.md R8, the end of a parse (the block's exception, 60_exceptions.md R205), PARSE and CLEAR. -/

namespace Sys2Proof.Machine

/-- What a step answers. -/
abbrev Answer := Host.Outcome State Fault Refusal

/-! ## FRAME_BUF as a list of cells (log entry 2) -/

/-- The byte a host write has set, or none. -/
def Memory.get? : List Host.Cell → Nat → Option Byte
  | [], _ => none
  | (k, b) :: m, a => if k = a then some b else Memory.get? m a

/-- Sets one byte, keeping the addresses rising. -/
def Memory.set : List Host.Cell → Nat → Byte → List Host.Cell
  | [], a, b => [(a, b)]
  | (k, c) :: m, a, b =>
    if a < k then (a, b) :: (k, c) :: m
    else if a = k then (a, b) :: m
    else (k, c) :: Memory.set m a b

/-- The canonical form from address `lo` on. -/
def Memory.wfFrom (lo : Nat) : List Host.Cell → Bool
  | [] => true
  | (k, _) :: m => decide (lo ≤ k) && decide (k < Config.bufBytes) && Memory.wfFrom (k + 1) m

/-- The canonical form: addresses strictly rising and inside FRAME_BUF. An unlisted address has no value, so no
entry equals what an unlisted address reads as. -/
def Memory.wf (m : List Host.Cell) : Bool := Memory.wfFrom 0 m

/-- FRAME_BUF[a]; a byte not written since reset is a free value (R232). -/
def State.frameByte (s : State) (a : Nat) : Byte :=
  (Memory.get? s.frameBuf a).getD (Config.unwrittenByte s.epoch a)

/-- MemRead(a, n) of 00_scope.md R8: little-endian, the byte at the lower offset the less significant (R40). -/
def State.readLe (s : State) (a : Nat) : Nat → Nat
  | 0 => 0
  | n + 1 => (s.frameByte a).toNat + 256 * s.readLe (a + 1) n

/-- FRAME_BUF[a] <- b (40_host_commands.md R91). -/
def State.writeByte (s : State) (a : Nat) (b : Byte) : State :=
  { s with frameBuf := Memory.set s.frameBuf a b }

/-- MemWrite(a, 4, v): FRAME_BUF[a+k] <- v[8k+7 : 8k] for k in 0..3 (40_host_commands.md R91). -/
def State.writeWord (s : State) (a : Nat) (v : Word) : State :=
  (((s.writeByte a (wordByte v 0)).writeByte (a + 1) (wordByte v 1)).writeByte (a + 2) (wordByte v 2)).writeByte
    (a + 3) (wordByte v 3)

/-! ## One-field updates -/

/-- STATE <- st. -/
def State.goto (s : State) (st : BitVec 4) : State := { s with state := st }

/-- The result set is replaced. -/
def State.setRes (s : State) (r : Results) : State := { s with res := r }

/-- OFF <- v. -/
def State.setOff (s : State) (v : BitVec 8) : State := { s with off := v }

/-- OFF <- OFF + n. -/
def State.advance (s : State) (n : Nat) : State := s.setOff (s.off + BitVec.ofNat 8 n)

/-- STATUS.BUS_ERR <- 1 (20_memory.md R47). -/
def State.flagBusErr (s : State) : State := { s with busErr := true }

/-- STATUS.WR_WHILE_BUSY <- 1 (R91, R92). -/
def State.flagWrWhileBusy (s : State) : State := { s with wrWhileBusy := true }

/-- STATUS.CMD_WHILE_BUSY <- 1 (R94). -/
def State.flagCmdWhileBusy (s : State) : State := { s with cmdWhileBusy := true }

/-- STATUS.BAD_CMD <- 1 (R96). -/
def State.flagBadCmd (s : State) : State := { s with badCmd := true }

/-- FRAME_LEN <- v (R92). -/
def State.setFrameLen (s : State) (v : BitVec 8) : State := { s with frameLen := v }

/-- CFG_PAN <- v (R92); that it has been written since reset is recorded for R234 (log entry 19). -/
def State.setCfgPan (s : State) (v : BitVec 16) : State := { s with cfgPan := v, cfgPanWritten := true }

/-- CTRL.IRQ_EN <- v (R92). -/
def State.setIrqEn (s : State) (v : Bool) : State := { s with irqEn := v }

/-- The value a host read returns (R90, log entry 5). -/
def State.returns (s : State) (v : Word) : State := { s with rdata := v }

/-- CCM_REQ <- v (R173, R177). -/
def State.setCcmReq (s : State) (v : Bool) : State := { s with ccmReq := v }

/-- The engine's event is over, or is presented (R34, log entry 6). -/
def State.setCcmDone (s : State) (e : Option Bool) : State := { s with ccmDone := e }

/-- The turns still to be taken (log entry 1). -/
def State.setTurns (s : State) (ts : List Turn) : State := { s with turns := ts }

/-! ## Reason codes (30_encoding.md R73) -/

@[simp] abbrev Reason.none : BitVec 8 := 0x00#8
@[simp] abbrev Reason.tooShortFc : BitVec 8 := 0x01#8
@[simp] abbrev Reason.fcReservedBit : BitVec 8 := 0x02#8
@[simp] abbrev Reason.fcSeqSuppression : BitVec 8 := 0x03#8
@[simp] abbrev Reason.fcIePresent : BitVec 8 := 0x04#8
@[simp] abbrev Reason.fcVersion : BitVec 8 := 0x05#8
@[simp] abbrev Reason.dstModeReserved : BitVec 8 := 0x06#8
@[simp] abbrev Reason.srcModeReserved : BitVec 8 := 0x07#8
@[simp] abbrev Reason.truncSeq : BitVec 8 := 0x08#8
@[simp] abbrev Reason.truncDstPan : BitVec 8 := 0x09#8
@[simp] abbrev Reason.truncDstAddr : BitVec 8 := 0x0A#8
@[simp] abbrev Reason.truncSrcPan : BitVec 8 := 0x0B#8
@[simp] abbrev Reason.truncSrcAddr : BitVec 8 := 0x0C#8
@[simp] abbrev Reason.noPayloadRoom : BitVec 8 := 0x0D#8
@[simp] abbrev Reason.payloadTooShort : BitVec 8 := 0x0E#8
@[simp] abbrev Reason.srcNotExtended : BitVec 8 := 0x0F#8
@[simp] abbrev Reason.panMismatch : BitVec 8 := 0x10#8
@[simp] abbrev Reason.panAbsent : BitVec 8 := 0x11#8
@[simp] abbrev Reason.authTagMismatch : BitVec 8 := 0x20#8

/-! ## The end of a parse: the block's exception (00_scope.md R8, 60_exceptions.md R200, R205) -/

/-- finish(o, r): OUTCOME, REASON and END_OFF are recorded, DONE is set, BUSY cleared, and STATE is S_DONE.
Nothing is saved and there is no handler and no return (R205). -/
def State.finish (s : State) (o : ParseOutcome) (r : BitVec 8) : State :=
  { s with
    res := { s.res with outcome := o, reason := r, endOff := s.off }
    state := FsmCode.done
    busy := false
    done := true }

/-- raise StructuralError(code) (00_scope.md R8). -/
def raiseStructural (code : BitVec 8) (s : State) : Answer := .next (s.finish .structuralError code)

/-- need(n, code): the bytes are there, or the parse ends (00_scope.md R8). -/
def need (s : State) (n : Nat) (code : BitVec 8) (k : Answer) : Answer :=
  if s.off.toNat + n > s.frameLen.toNat then raiseStructural code s else k

/-- The FSM's MemRead(a, n): its address space is [0, FRAME_LEN) (20_memory.md, R48; log entry 7). -/
def fsmRead (s : State) (a n : Nat) (k : Nat → Answer) : Answer :=
  if a + n ≤ s.frameLen.toNat then k (s.readLe a n) else .fault (.readBeyondFrame a n)

/-! ## PARSE and CLEAR (40_host_commands.md R94, R95) -/

/-- PARSE when BUSY = 0: the result set back at its reset values, OFF at 0, and the FSM at S_FC. -/
def State.startParse (s : State) : State :=
  { s with res := Results.reset, done := false, ccmReq := false, off := 0#8, busy := true, state := FsmCode.fc }

/-- CLEAR: the result set and all of STATUS back at their reset values, OFF at 0, and the FSM at S_IDLE. -/
def State.clearAll (s : State) : State :=
  { s with
    res := Results.reset, busy := false, done := false, ccmReq := false, wrWhileBusy := false,
    cmdWhileBusy := false, badCmd := false, busErr := false, off := 0#8, state := FsmCode.idle }

/-- A reset of the running machine (70_reset_and_hazards.md R230): every register at its reset value, FRAME_BUF
unspecified anew, and the world outside goes on (log entry 13). -/
def State.resetTurn (s : State) : State :=
  { State.reset with epoch := s.epoch + 1, turns := s.turns }

end Sys2Proof.Machine
end

