-- ==== Sys2Proof/Machine/Flags.lean ====
section
/-! DEFINITION. The status words a host reads, the outputs, and the codes they are made of (10_state.md R17 to R26,
R33, R34; 30_encoding.md R71, R72). -/

namespace Sys2Proof.Machine

/-- The code of an outcome (30_encoding.md R72). -/
def ParseOutcome.code : ParseOutcome → BitVec 4
  | .none => 0x0#4
  | .okData => 0x1#4
  | .okAck => 0x2#4
  | .notDecoded => 0x3#4
  | .structuralError => 0x4#4
  | .filterMiss => 0x5#4
  | .authError => 0x6#4

/-- The code of an address kind (10_state.md R19, R23). -/
def addrKindCode : AddrKind → BitVec 2
  | .none => 0#2
  | .short => 2#2
  | .long => 3#2

/-- A flag as a bit. -/
def flagBit (b : Bool) : BitVec 1 := BitVec.ofBool b

/-- STATUS (10_state.md R17). -/
def State.statusWord (s : State) : Word :=
  s.res.endOff ++ flagBit s.busErr ++ flagBit s.badCmd ++ flagBit s.cmdWhileBusy ++ flagBit s.wrWhileBusy ++
  s.state ++ s.res.reason ++ s.res.outcome.code ++ 0#1 ++ flagBit s.ccmReq ++ flagBit s.done ++ flagBit s.busy

/-- FC (10_state.md R18). -/
def Results.fcWord (r : Results) : Word := r.fcRaw.setWidth 32

/-- HDRINFO (10_state.md R19). -/
def Results.hdrInfoWord (r : Results) : Word :=
  0#5 ++ flagBit r.hdrValid ++ flagBit r.nonceValid ++ flagBit r.segValid ++ r.hdrLen ++ addrKindCode r.srcKind ++
  addrKindCode r.dstKind ++ flagBit r.fcValid ++ flagBit r.bcast ++ flagBit r.panValid ++ flagBit r.seqValid ++ r.seq

/-- PAN_ID (10_state.md R20). -/
def Results.panIdWord (r : Results) : Word := r.panId.setWidth 32

/-- SEG0 (10_state.md R24). -/
def Results.seg0Word (r : Results) : Word := r.adLen ++ r.ctLen ++ r.payLen ++ r.payOff

/-- SEG1 (10_state.md R24). -/
def Results.seg1Word (r : Results) : Word := 0#16 ++ r.ctrOff ++ r.tagOff

/-- The output `irq`, a level (10_state.md R34, 60_exceptions.md R210). -/
def State.irq (s : State) : Bool := s.irqEn && s.done

end Sys2Proof.Machine
end

