-- ==== Sys2Proof/Machine/Operands.lean ====
section
/-! DEFINITION. The operands: which register-port accesses are refused and what a register reads as (20_memory.md R45
to R47, 40_host_commands.md R90), the values the FSM assembles from frame bytes (30_encoding.md R81), the nonce
(44_segment_nonce.md R174) and the operands handed to the CCM engine (R176). -/

namespace Sys2Proof.Machine

/-! ## The register port -/

/-- The widths a descriptor can ask for (30_encoding.md R82). -/
inductive AccessWidth where
  | byte
  | word
  deriving DecidableEq, Repr

/-- refused(a, width) of 20_memory.md R47. -/
def refusedAccess (offset : Nat) : AccessWidth → Bool
  | .byte => decide (0x100 ≤ offset)
  | .word => decide (offset % 4 ≠ 0)

/-- A refused access: no effect but BUS_ERR, and a read returns 0 (20_memory.md R47). -/
def State.refuse (s : State) (write : Bool) : State :=
  if write then s.flagBusErr else s.flagBusErr.returns 0#32

/-- Four bytes of the nonce from byte `k` on, the first in bits 7:0 (10_state.md R26). -/
def nonceWord (nonce : Vector Byte 13) (k : Fin 10) : Word :=
  word32 nonce[k.val] nonce[k.val + 1] nonce[k.val + 2] nonce[k.val + 3]

/-- The register at an offset of 0x100 or above, reserved bits and reserved offsets 0 (20_memory.md R45). -/
def State.readRegister (s : State) (offset : BitVec 9) : Word :=
  if offset = 0x100#9 then s.frameLen.setWidth 32
  else if offset = 0x104#9 then s.cfgPan.setWidth 32
  else if offset = 0x108#9 then (flagBit s.irqEn).setWidth 32
  else if offset = 0x10C#9 then 0#32
  else if offset = 0x110#9 then s.statusWord
  else if offset = 0x114#9 then s.res.fcWord
  else if offset = 0x118#9 then s.res.hdrInfoWord
  else if offset = 0x11C#9 then s.res.panIdWord
  else if offset = 0x120#9 then s.res.dstAddr.extractLsb' 0 32
  else if offset = 0x124#9 then s.res.dstAddr.extractLsb' 32 32
  else if offset = 0x128#9 then s.res.srcAddr.extractLsb' 0 32
  else if offset = 0x12C#9 then s.res.srcAddr.extractLsb' 32 32
  else if offset = 0x130#9 then s.res.seg0Word
  else if offset = 0x134#9 then s.res.seg1Word
  else if offset = 0x138#9 then s.res.frameCounter
  else if offset = 0x13C#9 then nonceWord s.res.nonce 0
  else if offset = 0x140#9 then nonceWord s.res.nonce 4
  else if offset = 0x144#9 then nonceWord s.res.nonce 8
  else if offset = 0x148#9 then s.res.nonce[12].setWidth 32
  else 0#32

/-! ## Values assembled from frame bytes (30_encoding.md R81) -/

/-- FC_RAW <- w; FC_VALID <- 1; OFF <- 2 (41_frame_control.md R111). -/
def State.captureFc (s : State) (fc : BitVec 16) : State :=
  (s.setRes { s.res with fcRaw := fc, fcValid := true }).setOff 2#8

/-- SEQ <- b; SEQ_VALID <- 1; OFF <- 3 (41_frame_control.md R120, 42_addressing.md R130). -/
def State.takeSeq (s : State) (b : Nat) : State :=
  (s.setRes { s.res with seq := BitVec.ofNat 8 b, seqValid := true }).setOff 3#8

/-- PAN_ID <- p; PAN_VALID <- 1; OFF <- OFF + 2 (42_addressing.md R132). -/
def State.takeDstPan (s : State) (p : Nat) : State :=
  (s.setRes { s.res with panId := BitVec.ofNat 16 p, panValid := true }).advance 2

/-- PAN_ID <- p; OFF <- OFF + 2: the broadcast source PAN (42_addressing.md R135). -/
def State.takeSrcPan (s : State) (p : Nat) : State :=
  (s.setRes { s.res with panId := BitVec.ofNat 16 p }).advance 2

/-- DST_ADDR <- v; DST_KIND <- kind; OFF <- OFF + n (10_state.md R23, 42_addressing.md R133). -/
def State.takeDstAddr (s : State) (kind : AddrKind) (v n : Nat) : State :=
  (s.setRes { s.res with dstAddr := BitVec.ofNat 64 v, dstKind := kind }).advance n

/-- BCAST <- 1; DST_ADDR <- all ones (42_addressing.md R134). -/
def State.takeBroadcast (s : State) : State :=
  s.setRes { s.res with bcast := true, dstAddr := BitVec.allOnes 64 }

/-- DST_KIND <- 0: destination mode None (42_addressing.md R131). -/
def State.takeNoDst (s : State) : State := s.setRes { s.res with dstKind := .none }

/-- SRC_KIND <- 0: source mode None (42_addressing.md R138). -/
def State.takeNoSrc (s : State) : State := s.setRes { s.res with srcKind := .none }

/-- SRC_ADDR <- v; SRC_KIND <- kind; OFF <- OFF + n (10_state.md R23, 42_addressing.md R137). -/
def State.takeSrcAddr (s : State) (kind : AddrKind) (v n : Nat) : State :=
  (s.setRes { s.res with srcAddr := BitVec.ofNat 64 v, srcKind := kind }).advance n

/-- HDR_LEN <- OFF; HDR_VALID <- 1 (42_addressing.md R141). -/
def State.takeHdrLen (s : State) : State :=
  s.setRes { s.res with hdrLen := s.off, hdrValid := true }

/-- PAY_OFF <- OFF; AD_LEN <- OFF; PAY_LEN <- FRAME_LEN - 2 - OFF (42_addressing.md R143). -/
def State.takePayload (s : State) : State :=
  s.setRes { s.res with
    payOff := s.off, adLen := s.off, payLen := BitVec.ofNat 8 (s.frameLen.toNat - 2 - s.off.toNat) }

/-- The offset of the tag, PAY_OFF + PAY_LEN - 8 (44_segment_nonce.md R170), as a number. -/
def Results.tagAt (r : Results) : Nat := r.payOff.toNat + r.payLen.toNat - 8

/-- The offset of the frame counter, PAY_OFF + PAY_LEN - 4 (44_segment_nonce.md R170), as a number. -/
def Results.ctrAt (r : Results) : Nat := r.payOff.toNat + r.payLen.toNat - 4

/-- The segmentation of 44_segment_nonce.md R170, with the counter read. -/
def State.takeSegments (s : State) (counter : Nat) : State :=
  s.setRes { s.res with
    ctLen := BitVec.ofNat 8 (s.res.payLen.toNat - 8), tagOff := BitVec.ofNat 8 s.res.tagAt,
    ctrOff := BitVec.ofNat 8 s.res.ctrAt, frameCounter := BitVec.ofNat 32 counter, segValid := true }

/-- The decoded byte view of an address: byte k is ADDR[63-8k : 56-8k] (10_state.md R23). -/
def decodedByte (addr : BitVec 64) (k : Nat) : Byte := addr.extractLsb' (56 - 8 * k) 8

/-- NONCE[0..12] from the frame-counter bytes and the source address (44_segment_nonce.md R174), for either value of
the OPEN parameters. -/
def buildNonce (order : AddrOrder) (pad : Byte) (counter : Vector Byte 4) (src : BitVec 64) : Vector Byte 13 :=
  let addrByte (k : Nat) : Byte :=
    match order with
    | .wire => wordByte src k
    | .decoded => decodedByte src k
  #v[counter[0], counter[1], counter[2], counter[3], addrByte 0, addrByte 1, addrByte 2, addrByte 3, addrByte 4,
    addrByte 5, addrByte 6, addrByte 7, pad]

/-- The four frame-counter bytes in wire order, FRAME_BUF[c..c+3] with c = CTR_OFF (44_segment_nonce.md R174). -/
def State.counterBytes (s : State) : Vector Byte 4 :=
  let c := s.res.ctrOff.toNat
  #v[s.frameByte c, s.frameByte (c + 1), s.frameByte (c + 2), s.frameByte (c + 3)]

/-- NONCE <- the nonce; NONCE_VALID <- 1 (44_segment_nonce.md R173). -/
def State.takeNonce (s : State) : State :=
  s.setRes { s.res with
    nonce := buildNonce Config.nonceAddrOrder Config.noncePad s.counterBytes s.res.srcAddr, nonceValid := true }

/-! ## The operands of the CCM request (10_state.md R34, 44_segment_nonce.md R176) -/

/-- `n` bytes of FRAME_BUF from `a` on, in wire order. -/
def State.frameSlice (s : State) (a : Nat) : Nat → List Byte
  | 0 => []
  | n + 1 => s.frameByte a :: s.frameSlice (a + 1) n

/-- nonce, associated data, ciphertext, tag. -/
structure CcmOperands where
  nonce : Vector Byte 13
  associatedData : List Byte
  ciphertext : List Byte
  tag : List Byte
  deriving DecidableEq, Repr

/-- What the engine reads while CCM_REQ = 1 (44_segment_nonce.md R176). -/
def State.ccmOperands (s : State) : CcmOperands :=
  { nonce := s.res.nonce
    associatedData := s.frameSlice 0 s.res.adLen.toNat
    ciphertext := s.frameSlice s.res.payOff.toNat s.res.ctLen.toNat
    tag := s.frameSlice s.res.tagOff.toNat 4 }

end Sys2Proof.Machine
end

