-- ==== Sys2Proof/Machine/Addressing.lean ====
section
/-! DEFINITION. The address field extractor, states S_SEQ, S_DST, S_SRCPAN, S_SRC and S_BOUND (42_addressing.md). The
DAM rows are S_DST's three cases and the SAM rows S_SRC's (log entry 11). -/

namespace Sys2Proof.Machine

/-- S_SEQ (R130). -/
def execSSeq (s : State) : Answer :=
  need s 1 Reason.truncSeq <|
  fsmRead s 2 1 fun b => .next ((s.takeSeq b).goto FsmCode.dst)

/-- The destination PAN, then what follows it (R132). -/
def readDstPan (s : State) (k : State → Answer) : Answer :=
  need s 2 Reason.truncDstPan <|
  fsmRead s s.off.toNat 2 fun p => k (s.takeDstPan p)

/-- The destination address of `n` bytes, then what follows it (R133). -/
def readDstAddr (s : State) (kind : AddrKind) (n : Nat) (k : State → Answer) : Answer :=
  need s n Reason.truncDstAddr <|
  fsmRead s s.off.toNat n fun a => k (s.takeDstAddr kind a n)

/-- DAM = 0: no bytes consumed (R131). -/
def execDamNone (_fc : BitVec 16) (s : State) : Answer :=
  .next (s.takeNoDst.goto FsmCode.src)

/-- DAM = 2: PAN, short address, and the broadcast test (R131, R134). -/
def execDamShort (_fc : BitVec 16) (s : State) : Answer :=
  readDstPan s fun s =>
  readDstAddr s .short 2 fun s =>
    if s.res.panId = Config.bcastPan ∧ s.res.dstAddr = Config.bcastShort.setWidth 64 then
      .next (s.takeBroadcast.goto FsmCode.srcPan)
    else .next (s.goto FsmCode.src)

/-- DAM = 3: PAN and long address; never broadcast (R131, R134). -/
def execDamLong (_fc : BitVec 16) (s : State) : Answer :=
  readDstPan s fun s =>
  readDstAddr s .long 8 fun s => .next (s.goto FsmCode.src)

/-- S_DST (R131); DAM = 1 'cannot occur here' (log entry 8). -/
def execSDst (s : State) : Answer :=
  match classifyMode (fcDAM s.res.fcRaw) with
  | some .none => execDamNone s.res.fcRaw s
  | some .short => execDamShort s.res.fcRaw s
  | some .long => execDamLong s.res.fcRaw s
  | none => .refused .reservedAddressingMode

/-- S_SRCPAN: the source PAN takes the place of the destination PAN (R135). -/
def execSSrcPan (s : State) : Answer :=
  need s 2 Reason.truncSrcPan <|
  fsmRead s s.off.toNat 2 fun p => .next ((s.takeSrcPan p).goto FsmCode.src)

/-- The source address of `n` bytes, the header length, and on to S_BOUND (R137, R141). -/
def readSrcAddr (s : State) (kind : AddrKind) (n : Nat) : Answer :=
  need s n Reason.truncSrcAddr <|
  fsmRead s s.off.toNat n fun a => .next ((s.takeSrcAddr kind a n).takeHdrLen.goto FsmCode.bound)

/-- SAM = 0: no bytes (R137, R138). -/
def execSamNone (_fc : BitVec 16) (s : State) : Answer :=
  .next (s.takeNoSrc.takeHdrLen.goto FsmCode.bound)

/-- SAM = 2: a short address (R137, R139). -/
def execSamShort (_fc : BitVec 16) (s : State) : Answer := readSrcAddr s .short 2

/-- SAM = 3: a long address (R137, R140). -/
def execSamLong (_fc : BitVec 16) (s : State) : Answer := readSrcAddr s .long 8

/-- S_SRC (R137); SAM = 1 'cannot occur here' (log entry 8). -/
def execSSrc (s : State) : Answer :=
  match classifyMode (fcSAM s.res.fcRaw) with
  | some .none => execSamNone s.res.fcRaw s
  | some .short => execSamShort s.res.fcRaw s
  | some .long => execSamLong s.res.fcRaw s
  | none => .refused .reservedAddressingMode

/-- S_BOUND: the payload region (R142, R143). -/
def execSBound (s : State) : Answer :=
  need s 2 Reason.noPayloadRoom <| .next (s.takePayload.goto FsmCode.filter)

end Sys2Proof.Machine
end

