-- ==== Sys2Proof/Machine/Commands.lean ====
section
/-! DEFINITION. The commands: values written to CMD (40_host_commands.md R93 to R96). -/

namespace Sys2Proof.Machine

/-- NOP: no effect (R93). -/
def execNop (s : State) : Answer := .next s

/-- PARSE: ignored with CMD_WHILE_BUSY while a parse runs, else a new parse starts (R94). -/
def execParse (s : State) : Answer :=
  if s.busy then .next s.flagCmdWhileBusy else .next s.startParse

/-- CLEAR, in every state (R95). -/
def execClear (s : State) : Answer := .next s.clearAll

/-- Any other value sets BAD_CMD only (R96). -/
def execCmdUndefined (_code : Word) (s : State) : Answer := .next s.flagBadCmd

/-- The write of a value to CMD: the value selects the command (30_encoding.md R70, R82). -/
def execWrCmd (value : Word) (s : State) : Answer :=
  match classifyCmd value with
  | .nop => execNop s
  | .parse => execParse s
  | .clear => execClear s
  | .undefined => execCmdUndefined value s

end Sys2Proof.Machine
end

