-- ==== Sys2Proof/Machine/Filter.lean ====
section
/-! DEFINITION. The PAN filter, state S_FILTER (43_pan_filter.md). -/

namespace Sys2Proof.Machine

/-- S_FILTER (R160). -/
def execSFilter (s : State) : Answer :=
  if !s.res.panValid then .next (s.finish .filterMiss Reason.panAbsent)
  else if s.res.panId ≠ s.cfgPan then .next (s.finish .filterMiss Reason.panMismatch)
  else .next (s.goto FsmCode.segment)

end Sys2Proof.Machine
end

