-- ==== Sys2Proof/Machine/FrameControl.lean ====
section
/-! DEFINITION. The frame-control decoder, states S_FC and S_ACK (41_frame_control.md). S_FC checks the length, captures
the word and runs the FC16 row the word belongs to; each row's meaning is the rest of that one step (log entry 11). -/

namespace Sys2Proof.Machine

/-- A rejection: the word is captured (R111), then the parse ends. -/
def rejectFc (reason : BitVec 8) (fc : BitVec 16) (s : State) : Answer := raiseStructural reason (s.captureFc fc)

/-- A frame type that is recognized but not decoded: REASON = FT (R119). -/
def notDecoded (fc : BitVec 16) (s : State) : Answer :=
  .next ((s.captureFc fc).finish .notDecoded ((fcFT fc).setWidth 8))

/-- RSV = 1 (R112). -/
def execRejReservedBit (fc : BitVec 16) (s : State) : Answer := rejectFc Reason.fcReservedBit fc s

/-- SNS = 1 (R113). -/
def execRejSeqSuppression (fc : BitVec 16) (s : State) : Answer := rejectFc Reason.fcSeqSuppression fc s

/-- IEP = 1 (R114). -/
def execRejIePresent (fc : BitVec 16) (s : State) : Answer := rejectFc Reason.fcIePresent fc s

/-- FV = 1 (R115). -/
def execRejVersion1 (fc : BitVec 16) (s : State) : Answer := rejectFc Reason.fcVersion fc s

/-- FV = 2 (R115). -/
def execRejVersion2 (fc : BitVec 16) (s : State) : Answer := rejectFc Reason.fcVersion fc s

/-- FV = 3 (R115). -/
def execRejVersion3 (fc : BitVec 16) (s : State) : Answer := rejectFc Reason.fcVersion fc s

/-- DAM = 1 (R117). -/
def execRejDstModeReserved (fc : BitVec 16) (s : State) : Answer := rejectFc Reason.dstModeReserved fc s

/-- SAM = 1 (R118). -/
def execRejSrcModeReserved (fc : BitVec 16) (s : State) : Answer := rejectFc Reason.srcModeReserved fc s

/-- FT = 0 (R119). -/
def execFtBeacon (fc : BitVec 16) (s : State) : Answer := notDecoded fc s

/-- FT = 1: on to S_SEQ (R119). -/
def execFtData (fc : BitVec 16) (s : State) : Answer := .next ((s.captureFc fc).goto FsmCode.seq)

/-- FT = 2: on to S_ACK (R119). -/
def execFtAck (fc : BitVec 16) (s : State) : Answer := .next ((s.captureFc fc).goto FsmCode.ack)

/-- FT = 3 (R119). -/
def execFtMacCommand (fc : BitVec 16) (s : State) : Answer := notDecoded fc s

/-- FT = 4 (R119). -/
def execFtReserved (fc : BitVec 16) (s : State) : Answer := notDecoded fc s

/-- FT = 5 (R119). -/
def execFtMultipurpose (fc : BitVec 16) (s : State) : Answer := notDecoded fc s

/-- FT = 6 (R119). -/
def execFtFragment (fc : BitVec 16) (s : State) : Answer := notDecoded fc s

/-- FT = 7 (R119). -/
def execFtExtended (fc : BitVec 16) (s : State) : Answer := notDecoded fc s

/-- The row a frame-control word belongs to is run (R110, R116). -/
def runFrameControl (fc : BitVec 16) (s : State) : Answer :=
  match classifyFc fc with
  | .rejReservedBit => execRejReservedBit fc s
  | .rejSeqSuppression => execRejSeqSuppression fc s
  | .rejIePresent => execRejIePresent fc s
  | .rejVersion1 => execRejVersion1 fc s
  | .rejVersion2 => execRejVersion2 fc s
  | .rejVersion3 => execRejVersion3 fc s
  | .rejDstModeReserved => execRejDstModeReserved fc s
  | .rejSrcModeReserved => execRejSrcModeReserved fc s
  | .ftBeacon => execFtBeacon fc s
  | .ftData => execFtData fc s
  | .ftAck => execFtAck fc s
  | .ftMacCommand => execFtMacCommand fc s
  | .ftReserved => execFtReserved fc s
  | .ftMultipurpose => execFtMultipurpose fc s
  | .ftFragment => execFtFragment fc s
  | .ftExtended => execFtExtended fc s

/-- S_FC (R110). -/
def execSFc (s : State) : Answer :=
  if s.frameLen.toNat < 2 then raiseStructural Reason.tooShortFc s
  else fsmRead s 0 2 fun w => runFrameControl (BitVec.ofNat 16 w) s

/-- S_ACK (R120). -/
def execSAck (s : State) : Answer :=
  if 3 ≤ s.frameLen.toNat then
    fsmRead s 2 1 fun b => .next ((s.takeSeq b).finish .okAck Reason.none)
  else .next (s.finish .okAck Reason.none)

end Sys2Proof.Machine
end

