-- ==== Sys2Proof/Machine/HostPort.lean ====
section
/-! DEFINITION. The host transactions but for the commands (40_host_commands.md R90 to R92, 20_memory.md R47). -/

namespace Sys2Proof.Machine

/-- A 32-bit access with offset bit 0 set (20_memory.md R47). -/
def execRefusedMisalignedBit0 (write : Bool) (_offset : BitVec 9) (s : State) : Answer := .next (s.refuse write)

/-- A 32-bit access with offset bit 1 set (20_memory.md R47). -/
def execRefusedMisalignedBit1 (write : Bool) (_offset : BitVec 9) (s : State) : Answer := .next (s.refuse write)

/-- An 8-bit access to an offset of 0x100 or above (20_memory.md R47). -/
def execRefusedByteReg (write : Bool) (_offset : BitVec 9) (s : State) : Answer := .next (s.refuse write)

/-- An 8-bit read of FRAME_BUF (40_host_commands.md R90). -/
def execRd8 (offset : BitVec 8) (s : State) : Answer :=
  if refusedAccess offset.toNat .byte then .next (s.refuse false)
  else .next (s.returns ((s.frameByte offset.toNat).setWidth 32))

/-- An 8-bit write into FRAME_BUF; the byte is bits 7:0 of the value (40_host_commands.md R91). -/
def execWr8 (offset : BitVec 8) (value : Word) (s : State) : Answer :=
  if refusedAccess offset.toNat .byte then .next (s.refuse true)
  else if s.busy then .next s.flagWrWhileBusy
  else .next (s.writeByte offset.toNat (wordByte value 0))

/-- A 32-bit read of FRAME_BUF, little-endian (40_host_commands.md R90, 20_memory.md R44). -/
def execRd32Buf (offset : BitVec 8) (s : State) : Answer :=
  if refusedAccess offset.toNat .word then .next (s.refuse false)
  else .next (s.returns (BitVec.ofNat 32 (s.readLe offset.toNat 4)))

/-- A 32-bit write into FRAME_BUF (40_host_commands.md R91). -/
def execWr32Buf (offset : BitVec 8) (value : Word) (s : State) : Answer :=
  if refusedAccess offset.toNat .word then .next (s.refuse true)
  else if s.busy then .next s.flagWrWhileBusy
  else .next (s.writeWord offset.toNat value)

/-- A 32-bit read of a register (40_host_commands.md R90, 20_memory.md R45). -/
def execRd32Reg (offset : BitVec 9) (s : State) : Answer :=
  if refusedAccess offset.toNat .word then .next (s.refuse false)
  else .next (s.returns (s.readRegister offset))

/-- A 32-bit write to a register other than CMD (40_host_commands.md R92). -/
def execWr32Reg (offset : BitVec 9) (value : Word) (s : State) : Answer :=
  if refusedAccess offset.toNat .word then .next (s.refuse true)
  else if offset = 0x100#9 then
    if s.busy then .next s.flagWrWhileBusy else .next (s.setFrameLen (value.extractLsb' 0 8))
  else if offset = 0x104#9 then
    if s.busy then .next s.flagWrWhileBusy else .next (s.setCfgPan (value.extractLsb' 0 16))
  else if offset = 0x108#9 then .next (s.setIrqEn (value.getLsbD 0))
  else .next s

end Sys2Proof.Machine
end

