-- ==== Sys2Proof/Machine/Resting.lean ====
section
/-! DEFINITION. The resting states S_IDLE and S_DONE, which have no step (10_state.md R30, 60_exceptions.md R218). -/

namespace Sys2Proof.Machine

/-- S_IDLE: no step; left by PARSE (10_state.md R30). -/
def execSIdle (s : State) : Answer := .next s

/-- S_DONE: no step; left by PARSE or CLEAR (10_state.md R30). -/
def execSDone (s : State) : Answer := .next s

end Sys2Proof.Machine
end

