-- ==== Sys2Proof/Machine/Segment.lean ====
section
/-! DEFINITION. The payload segmenter, the nonce builder and the hand-off to the CCM engine, states S_SEGMENT, S_NONCE
and S_CCM_WAIT (44_segment_nonce.md). -/

namespace Sys2Proof.Machine

/-- S_SEGMENT (R170). -/
def execSSegment (s : State) : Answer :=
  if s.res.payLen.toNat < 8 then raiseStructural Reason.payloadTooShort s
  else fsmRead s s.res.ctrAt 4 fun c => .next ((s.takeSegments c).goto FsmCode.nonce)

/-- S_NONCE (R173 to R175). -/
def execSNonce (s : State) : Answer :=
  if s.res.srcKind ≠ .long then raiseStructural Reason.srcNotExtended s
  else fsmRead s s.res.ctrOff.toNat 4 fun _ => .next ((s.takeNonce.setCcmReq true).goto FsmCode.ccmWait)

/-- The event `ccm_done(auth_ok)`; outside S_CCM_WAIT it changes nothing (R177). -/
def State.answerCcm (s : State) (authOk : Bool) : State :=
  if s.state ≠ FsmCode.ccmWait then s
  else if authOk then (s.setCcmReq false).finish .okData Reason.none
  else (s.setCcmReq false).finish .authError Reason.authTagMismatch

/-- S_CCM_WAIT: no step of its own; it moves on the engine's event and waits without it (10_state.md R30, R177). -/
def execSCcmWait (s : State) : Answer :=
  match s.ccmDone with
  | none => .next s
  | some authOk => .next ((s.setCcmDone none).answerCcm authOk)

end Sys2Proof.Machine
end

