-- ==== Sys2Proof/Machine/Dispatch.lean ====
section
/-! DEFINITION. One arm per constructor of `Instr`, each one direct call of its meaning. -/

namespace Sys2Proof.Machine

def exec (i : Instr) (s : State) : Host.Outcome State Fault Refusal :=
  match i with
  | .nop => Sys2Proof.Machine.execNop s
  | .parse => Sys2Proof.Machine.execParse s
  | .clear => Sys2Proof.Machine.execClear s
  | .cmdUndefined code => Sys2Proof.Machine.execCmdUndefined code s
  | .wrCmd value => Sys2Proof.Machine.execWrCmd value s
  | .refusedMisalignedBit0 write offset => Sys2Proof.Machine.execRefusedMisalignedBit0 write offset s
  | .refusedMisalignedBit1 write offset => Sys2Proof.Machine.execRefusedMisalignedBit1 write offset s
  | .refusedByteReg write offset => Sys2Proof.Machine.execRefusedByteReg write offset s
  | .rd8 offset => Sys2Proof.Machine.execRd8 offset s
  | .wr8 offset value => Sys2Proof.Machine.execWr8 offset value s
  | .rd32Buf offset => Sys2Proof.Machine.execRd32Buf offset s
  | .wr32Buf offset value => Sys2Proof.Machine.execWr32Buf offset value s
  | .rd32Reg offset => Sys2Proof.Machine.execRd32Reg offset s
  | .wr32Reg offset value => Sys2Proof.Machine.execWr32Reg offset value s
  | .sIdle => Sys2Proof.Machine.execSIdle s
  | .sFc => Sys2Proof.Machine.execSFc s
  | .sAck => Sys2Proof.Machine.execSAck s
  | .sSeq => Sys2Proof.Machine.execSSeq s
  | .sDst => Sys2Proof.Machine.execSDst s
  | .sSrcPan => Sys2Proof.Machine.execSSrcPan s
  | .sSrc => Sys2Proof.Machine.execSSrc s
  | .sBound => Sys2Proof.Machine.execSBound s
  | .sFilter => Sys2Proof.Machine.execSFilter s
  | .sSegment => Sys2Proof.Machine.execSSegment s
  | .sNonce => Sys2Proof.Machine.execSNonce s
  | .sCcmWait => Sys2Proof.Machine.execSCcmWait s
  | .sDone => Sys2Proof.Machine.execSDone s
  | .rejReservedBit fc => Sys2Proof.Machine.execRejReservedBit fc s
  | .rejSeqSuppression fc => Sys2Proof.Machine.execRejSeqSuppression fc s
  | .rejIePresent fc => Sys2Proof.Machine.execRejIePresent fc s
  | .rejVersion1 fc => Sys2Proof.Machine.execRejVersion1 fc s
  | .rejVersion2 fc => Sys2Proof.Machine.execRejVersion2 fc s
  | .rejVersion3 fc => Sys2Proof.Machine.execRejVersion3 fc s
  | .rejDstModeReserved fc => Sys2Proof.Machine.execRejDstModeReserved fc s
  | .rejSrcModeReserved fc => Sys2Proof.Machine.execRejSrcModeReserved fc s
  | .ftBeacon fc => Sys2Proof.Machine.execFtBeacon fc s
  | .ftData fc => Sys2Proof.Machine.execFtData fc s
  | .ftAck fc => Sys2Proof.Machine.execFtAck fc s
  | .ftMacCommand fc => Sys2Proof.Machine.execFtMacCommand fc s
  | .ftReserved fc => Sys2Proof.Machine.execFtReserved fc s
  | .ftMultipurpose fc => Sys2Proof.Machine.execFtMultipurpose fc s
  | .ftFragment fc => Sys2Proof.Machine.execFtFragment fc s
  | .ftExtended fc => Sys2Proof.Machine.execFtExtended fc s
  | .damNone fc => Sys2Proof.Machine.execDamNone fc s
  | .damShort fc => Sys2Proof.Machine.execDamShort fc s
  | .damLong fc => Sys2Proof.Machine.execDamLong fc s
  | .samNone fc => Sys2Proof.Machine.execSamNone fc s
  | .samShort fc => Sys2Proof.Machine.execSamShort fc s
  | .samLong fc => Sys2Proof.Machine.execSamLong fc s

end Sys2Proof.Machine
end

