-- ==== Sys2Proof/Machine/Turns.lean ====
section
/-! DEFINITION. Whose turn it is and what it fetches (10_state.md R30, 20_memory.md R52): the interleaving of the block,
the host, the engine and reset (log entries 1, 12, 13, 14), and where `withFetchWord` places a word of the table. -/

namespace Sys2Proof.Machine

/-- What the next transition is: an instruction to run at a state, a transition that is no row of the table, or
nothing the spec gives a meaning to. -/
inductive Plan where
  | run (i : Instr) (s : State)
  | settle (s : State)
  | refuse (r : Refusal)
  deriving DecidableEq, Repr

/-- The block's turn: the step of the state STATE holds, when BUSY = 1; S_IDLE and S_DONE have none, and a state with
BUSY = 0 has none (10_state.md R30). -/
def planBlock (s : State) : Plan :=
  match decode (.fsm4 s.state) with
  | .error _ => .refuse (.stateNeverEntered s.state)
  | .ok i => if s.busy then .run i s else .settle s

/-- One turn of the interleaving; `s` no longer lists it. -/
def planTurn (t : Turn) (s : State) : Plan :=
  match t with
  | .host td value =>
    match decode (.td11 td value) with
    | .error _ => .settle s
    | .ok i => .run i s
  | .otherWidth write _ => .settle (s.refuse write)
  | .block => planBlock s
  | .engine authOk => .run .sCcmWait (s.setCcmDone (some authOk))
  | .reset => .settle s.resetTurn

/-- The next transition. A run that starts with a state code that is never entered is refused
(93_implementation_defined.md row 13); no turn listed leaves the block its turn (70_reset_and_hazards.md R240). -/
def plan (s : State) : Plan :=
  match decode (.fsm4 s.state) with
  | .error _ => .refuse (.stateNeverEntered s.state)
  | .ok _ =>
    match s.turns with
    | [] => planBlock s
    | t :: rest => planTurn t (s.setTurns rest)

/-- The state of the FSM registers while STATE holds a code: BUSY, DONE and CCM_REQ agree with it (10_state.md R17). -/
def State.enterState (s : State) (code : BitVec 4) : State :=
  { s with
    state := code, busy := code != FsmCode.idle && code != FsmCode.done, done := code == FsmCode.done,
    ccmReq := code == FsmCode.ccmWait }

/-- A code placed where the next step fetches it: a transaction or a command at the head of the turns, a state code in
STATE, a frame-control word in FRAME_BUF before S_FC or in FC before S_DST and S_SRC. -/
def State.place (s : State) : Code → State
  | .cmd32 w => s.setTurns (.host 0x70C#11 w :: s.turns)
  | .td11 td value => s.setTurns (.host td value :: s.turns)
  | .fsm4 w => (s.enterState w).setTurns (.block :: s.turns)
  | .fc16 w =>
    let s := (s.writeByte 0 (wordByte w 0)).writeByte 1 (wordByte w 1)
    let s := if s.frameLen.toNat < 2 then s.setFrameLen 2#8 else s
    (s.enterState FsmCode.fc).setTurns (.block :: s.turns)
  | .dst16 w =>
    ((s.setRes { s.res with fcRaw := w, fcValid := true }).enterState FsmCode.dst).setTurns (.block :: s.turns)
  | .src16 w =>
    ((s.setRes { s.res with fcRaw := w, fcValid := true }).enterState FsmCode.src).setTurns (.block :: s.turns)

/-- A number of the opcode table placed where the next step fetches it; a number that is no code changes nothing. -/
def State.placeTableWord (s : State) (nbits w : Nat) : State :=
  match tableCode nbits w with
  | .ok c => s.place c
  | .error _ => s

end Sys2Proof.Machine
end

