-- ==== Sys2Proof/Machine/Step.lean ====
section
/-! DEFINITION. The step: the next transition of the interleaving (20_memory.md R52), and `withFetchWord`. -/

namespace Sys2Proof.Machine

/-- One transition. -/
def step (s : State) : Host.Outcome State Fault Refusal :=
  match plan s with
  | .run i s' => exec i s'
  | .settle s' => .next s'
  | .refuse r => .refused r

/-- `s` with a number of the opcode table stored where `step` fetches next (log entries 1 and 10). -/
def State.withFetchWord (s : State) (nbits w : Nat) : State := s.placeTableWord nbits w

end Sys2Proof.Machine
end

