-- ==== Sys2Proof/Safety.lean ====
section
/-! DEFINITION. What the claims speak of: the header-length table of 30_encoding.md R67, the invariant every transition
keeps, the launch premise of 70_reset_and_hazards.md R234 and the measure of a parse's progress. -/

namespace Sys2Proof.Machine

/-- A code STATE may hold (30_encoding.md R71). -/
def stateLegal (code : BitVec 4) : Bool := decide (code.toNat ≤ 0xB) || code == FsmCode.done

/-- STATE lies past S_SRC and before the end of a parse: S_BOUND to S_CCM_WAIT. -/
def pastHeader (code : BitVec 4) : Bool := decide (0x7 ≤ code.toNat) && decide (code.toNat ≤ 0xB)

/-- STATE lies past S_BOUND and before the end of a parse: S_FILTER to S_CCM_WAIT. -/
def pastBound (code : BitVec 4) : Bool := decide (0x8 ≤ code.toNat) && decide (code.toNat ≤ 0xB)

/-- STATE lies past S_FILTER and before the end of a parse: S_SEGMENT to S_CCM_WAIT. -/
def pastFilter (code : BitVec 4) : Bool := decide (0x9 ≤ code.toNat) && decide (code.toNat ≤ 0xB)

/-- STATE lies past S_SEGMENT and before the end of a parse: S_NONCE or S_CCM_WAIT. -/
def pastSegment (code : BitVec 4) : Bool := decide (0xA ≤ code.toNat) && decide (code.toNat ≤ 0xB)

/-- STATE lies where a data frame's addressing fields are still read: S_SEQ to S_SRC. -/
def readingHeader (code : BitVec 4) : Bool := decide (0x3 ≤ code.toNat) && decide (code.toNat ≤ 0x6)

/-- Bytes of the destination fields by DAM (30_encoding.md R66, R67). -/
def dstBytes (fc : BitVec 16) : Nat :=
  match classifyMode (fcDAM fc) with
  | some .short => 4
  | some .long => 10
  | _ => 0

/-- Bytes of the source address by SAM (30_encoding.md R66, R67). -/
def srcBytes (fc : BitVec 16) : Nat :=
  match classifyMode (fcSAM fc) with
  | some .short => 2
  | some .long => 8
  | _ => 0

/-- Bytes of the broadcast source PAN (30_encoding.md R66). -/
def srcPanBytes (bcast : Bool) : Nat := if bcast then 2 else 0

/-- HDR_LEN = 3 + d + b + s (30_encoding.md R67). -/
def headerLength (fc : BitVec 16) (bcast : Bool) : Nat := 3 + dstBytes fc + srcPanBytes bcast + srcBytes fc

/-- The status bits agree with STATE, and STATE holds a legal code (10_state.md R17, 30_encoding.md R71). -/
structure StatusInv (s : State) : Prop where
  legal : stateLegal s.state = true
  busy : s.busy = (s.state != FsmCode.idle && s.state != FsmCode.done)
  done : s.done = (s.state == FsmCode.done)
  ccmReq : s.ccmReq = (s.state == FsmCode.ccmWait)
  ccmDone : s.ccmDone = none

/-- A field whose valid bit is 0 holds its reset value (10_state.md R32; SEG_VALID covers what S_SEGMENT writes,
log entry 16), an address without a kind is 0 (R23), and no outcome is reported before the end (R72). -/
structure ResultInv (s : State) : Prop where
  running : s.done = false → s.res.outcome = .none ∧ s.res.reason = 0#8 ∧ s.res.endOff = 0#8
  ended : s.done = true → s.res.outcome ≠ .none
  idle : s.state = FsmCode.idle → s.res = Results.reset
  fc : s.res.fcValid = false → s.res.fcRaw = 0#16
  seq : s.res.seqValid = false → s.res.seq = 0#8
  pan : s.res.panValid = false → s.res.panId = 0#16
  hdr : s.res.hdrValid = false → s.res.hdrLen = 0#8
  seg : s.res.segValid = false →
    s.res.ctLen = 0#8 ∧ s.res.tagOff = 0#8 ∧ s.res.ctrOff = 0#8 ∧ s.res.frameCounter = 0#32
  nonce : s.res.nonceValid = false → s.res.nonce = Vector.replicate 13 0#8
  dst : s.res.dstKind = .none → s.res.dstAddr = 0#64
  src : s.res.srcKind = .none → s.res.srcAddr = 0#64
  bcast : s.res.bcast = true → s.res.dstKind = .short ∧ s.res.dstAddr = BitVec.allOnes 64
  hdrLen : s.res.hdrValid = true → s.res.hdrLen.toNat = headerLength s.res.fcRaw s.res.bcast
  /-- the engine answers only for a nonce that was built (44_segment_nonce.md R177) -/
  verdict : s.res.outcome = .okData ∨ s.res.outcome = .authError → s.res.nonceValid = true
  /-- no nonce is built for a frame on a foreign network (43_pan_filter.md R161) -/
  miss : s.res.outcome = .filterMiss → s.res.segValid = false ∧ s.res.nonceValid = false
  /-- an acknowledgment is never addressed (41_frame_control.md R120) -/
  ack : s.res.outcome = .okAck → s.res.hdrValid = false

/-- Where the parse has got to: what the fields hold while STATE holds each code (42_addressing.md to
44_segment_nonce.md). -/
structure ProgressInv (s : State) : Prop where
  /-- OFF never passes FRAME_LEN during a parse (10_state.md R27, 20_memory.md R49; log entry 15) -/
  bound : s.busy = true → s.off.toNat ≤ s.frameLen.toNat
  atFc : s.state = FsmCode.fc → s.off = 0#8 ∧ s.res = Results.reset
  atAck : s.state = FsmCode.ack → s.off = 2#8
  atSeq : s.state = FsmCode.seq → s.off = 2#8
  atDst : s.state = FsmCode.dst → s.off = 3#8
  atSrcPan : s.state = FsmCode.srcPan →
    s.off = 7#8 ∧ s.res.bcast = true ∧ fcDAM s.res.fcRaw = 2#2 ∧ s.res.panValid = true
  atSrc : s.state = FsmCode.src → s.off.toNat = 3 + dstBytes s.res.fcRaw + srcPanBytes s.res.bcast
  /-- mode 1 never gets past S_FC (41_frame_control.md R117, R118) -/
  modes : readingHeader s.state = true →
    s.res.fcValid = true ∧ fcDAM s.res.fcRaw ≠ 1#2 ∧ fcSAM s.res.fcRaw ≠ 1#2
  /-- what a parse has not reached holds its reset value (10_state.md R32) -/
  freshHdr : s.busy = true → pastHeader s.state = false → s.res.hdrValid = false
  freshSeg : s.busy = true → pastSegment s.state = false → s.res.segValid = false
  freshNonce : s.busy = true → s.state ≠ FsmCode.ccmWait → s.res.nonceValid = false
  early : s.state = FsmCode.seq ∨ s.state = FsmCode.dst →
    s.res.bcast = false ∧ s.res.dstKind = .none ∧ s.res.panValid = false
  noSource : readingHeader s.state = true → s.res.srcKind = .none
  header : pastHeader s.state = true →
    s.res.hdrValid = true ∧ s.res.hdrLen = s.off ∧ s.off.toNat = headerLength s.res.fcRaw s.res.bcast
  payload : pastBound s.state = true →
    s.res.payOff = s.off ∧ s.res.adLen = s.off ∧ s.off.toNat + s.res.payLen.toNat + 2 = s.frameLen.toNat
  pan : pastFilter s.state = true → s.res.panValid = true ∧ s.res.panId = s.cfgPan
  segments : pastSegment s.state = true →
    s.res.segValid = true ∧ 8 ≤ s.res.payLen.toNat ∧ s.res.ctLen.toNat + 8 = s.res.payLen.toNat ∧
    s.res.tagOff.toNat = s.off.toNat + s.res.ctLen.toNat ∧ s.res.ctrOff.toNat = s.res.tagOff.toNat + 4 ∧
    s.res.frameCounter = BitVec.ofNat 32 (s.readLe s.res.ctrOff.toNat 4)
  wait : s.state = FsmCode.ccmWait →
    s.res.srcKind = .long ∧ s.res.nonceValid = true ∧
    s.res.nonce = buildNonce Config.nonceAddrOrder Config.noncePad s.counterBytes s.res.srcAddr

/-- The invariant of every reachable state. -/
structure Inv (s : State) : Prop where
  memory : Memory.wf s.frameBuf = true
  status : StatusInv s
  results : ResultInv s
  progress : ProgressInv s
  /-- CFG_PAN holds 0x0000 until the first write (70_reset_and_hazards.md R233, 93_implementation_defined.md row 20) -/
  config : s.cfgPanWritten = false → s.cfgPan = 0x0000#16

/-! ## The launch premise (70_reset_and_hazards.md R234) -/

/-- The bytes [0, FRAME_LEN) have been written since reset (70_reset_and_hazards.md R232, R234). -/
def State.frameWritten (s : State) : Prop :=
  ∀ a, a < s.frameLen.toNat → (Memory.get? s.frameBuf a).isSome = true

/-- The turn is the engine's answer. -/
def Turn.isEngine : Turn → Bool
  | .engine _ => true
  | .host _ _ => false
  | .otherWidth _ _ => false
  | .block => false
  | .reset => false

/-- From `s` on, while the turns listed are taken, the engine answers each rise of CCM_REQ exactly once and never
unasked; `owed` counts the requests raised and not yet answered (60_exceptions.md R213, log entry 19). -/
def engineAnswersOnce : List Turn → Nat → State → Bool
  | [], owed, _ => owed == 0
  | t :: rest, owed, s =>
    match step (s.setTurns (t :: rest)) with
    | .next s' =>
      (!t.isEngine || decide (0 < owed)) &&
        engineAnswersOnce rest (owed + (!s.ccmReq && s'.ccmReq).toNat - t.isEngine.toNat) s'
    | .fault _ => owed == 0
    | .refused _ => owed == 0

/-- The four premises of a launch, at the write of PARSE (70_reset_and_hazards.md R234). -/
structure LaunchPremise (s : State) : Prop where
  /-- BUSY = 0 -/
  notBusy : s.busy = false
  /-- FRAME_BUF bytes [0, FRAME_LEN) have been written since reset -/
  frame : s.frameWritten
  /-- CFG_PAN has been written -/
  pan : s.cfgPanWritten = true
  /-- the CCM engine will answer each request once -/
  engine : engineAnswersOnce s.turns 0 s = true

/-! ## Progress of a parse (30_encoding.md R74, 60_exceptions.md R207) -/

/-- How many steps of its own the block can still take in a parse that stands in this state (30_encoding.md R74):
none at rest, in S_CCM_WAIT and in the codes that are never entered. -/
def stepsLeft (code : BitVec 4) : Nat :=
  if code = FsmCode.fc then 9
  else if code = FsmCode.ack then 1
  else if 0x3 ≤ code.toNat ∧ code.toNat ≤ 0xA then 0xB - code.toNat
  else 0

/-- A parse has come to its end, or waits for the engine (60_exceptions.md R207). -/
def State.parseEnded (s : State) : Prop := s.state = FsmCode.done ∨ s.state = FsmCode.ccmWait

/-- A step answers a next state: neither a fault nor a refusal. -/
def State.canStep (s : State) : Prop := ∃ t, step s = .next t

end Sys2Proof.Machine
end

