-- ==== Sys2Proof/Certificates/Slice0/Obligations.lean ====
section
/-! DEFINITION. The statements for the provers. Each says in its docstring which rule of spec/ it formalises. -/

open Sys2Proof Sys2Proof.Machine

/-! ## Encodings (30_encoding.md) -/

/-- Every bit of every well-formed instruction is kept: its words, laid out as bytes before any other bytes, are read
back as that instruction and leave the other bytes (30_encoding.md; the byte layout of a transaction is log entry 18). -/
def Obligations.BytesOfAnInstructionDecodeToIt : Prop :=
  ∀ i : Instr, i.wellFormed = true → ∀ rest : List Byte,
    decodeBytes (encode i).format ((encode i).bytes ++ rest) = .ok (i, rest)

/-- What the decoder reads is well-formed and stands for the word it was read from. WR_CMD, WR8, WR32_BUF and WR32_REG
keep the value that goes with the descriptor; a read has none, and the three refused rows drop it, which is the model's
choice, log entry 20. -/
def Obligations.DecodedWordsAreWellFormedAndEncodeBack : Prop :=
  ∀ (c : Code) (i : Instr), decode c = .ok i →
    i.wellFormed = true ∧
    match c with
    | .td11 td v =>
      match i with
      | .wrCmd _ | .wr8 _ _ | .wr32Buf _ _ | .wr32Reg _ _ => encode i = .td11 td v
      | _ => encode i = .td11 td 0#32
    | .cmd32 w => encode i = .cmd32 w
    | .fsm4 w => encode i = .fsm4 w
    | .fc16 w => encode i = .fc16 w
    | .dst16 w => encode i = .dst16 w
    | .src16 w => encode i = .src16 w

/-- 30_encoding.md R63: encode(decode(w)) = w for every 16-bit w. -/
def Obligations.FrameControlFieldsRoundTrip : Prop :=
  ∀ w : BitVec 16, encodeFrameControl (decodeFrameControl w) = w

/-- Words written out from the spec's encodings decode to the instructions they stand for (30_encoding.md R70, R71,
R82, R62, and the programs of 95_test_vectors.md section 9). -/
def Obligations.SpecWordsDecodeAsTheSpecSays : Prop :=
  decode (.cmd32 0x00000001#32) = .ok .parse ∧
  decode (.cmd32 0x80000001#32) = .ok (.cmdUndefined 0x80000001#32) ∧
  decode (.td11 0x70C#11 0x00000002#32) = .ok (.wrCmd 0x00000002#32) ∧
  decode (.td11 0x704#11 0x00004447#32) = .ok (.wr32Reg 0x104#9 0x00004447#32) ∧
  decode (.td11 0x310#11 0x00000000#32) = .ok (.rd32Reg 0x110#9) ∧
  decode (.td11 0x411#11 0x00000000#32) = .ok (.wr8 0x11#8 0x00000000#32) ∧
  decode (.td11 0x100#11 0x00000000#32) = .ok (.refusedByteReg false 0x100#9) ∧
  decode (.td11 0x302#11 0x00000000#32) = .ok (.refusedMisalignedBit1 false 0x102#9) ∧
  decode (.fsm4 0xA#4) = .ok .sNonce ∧
  decode (.fsm4 0xC#4) = .error .stateNeverEntered ∧
  decode (.fc16 0x8861#16) = .ok (.ftData 0x8861#16) ∧
  decode (.fc16 0x1401#16) = .ok (.rejVersion1 0x1401#16) ∧
  decode (.dst16 0x8861#16) = .ok (.damShort 0x8861#16) ∧
  decode (.src16 0xC801#16) = .ok (.samLong 0xC801#16)

/-- 30_encoding.md R82: the transaction patterns, first match wins. -/
def Obligations.TransactionPatternsFirstMatchWins : Prop :=
  ∀ (td : BitVec 11) (v : Word),
    let w := td.getLsbD 10
    let wide := td.getLsbD 9
    let high := td.getLsbD 8
    let misaligned := td.extractLsb' 0 2 ≠ 0#2
    (td = 0x70C#11 → decode (.td11 td v) = .ok (.wrCmd v)) ∧
    (wide = true ∧ misaligned →
      decode (.td11 td v) = .ok (.refusedMisalignedBit0 w (td.extractLsb' 0 9)) ∨
      decode (.td11 td v) = .ok (.refusedMisalignedBit1 w (td.extractLsb' 0 9))) ∧
    (wide = false ∧ high = true → decode (.td11 td v) = .ok (.refusedByteReg w (td.extractLsb' 0 9))) ∧
    (w = false ∧ wide = false ∧ high = false → decode (.td11 td v) = .ok (.rd8 (td.extractLsb' 0 8))) ∧
    (w = true ∧ wide = false ∧ high = false → decode (.td11 td v) = .ok (.wr8 (td.extractLsb' 0 8) v)) ∧
    (w = false ∧ wide = true ∧ high = false ∧ ¬ misaligned →
      decode (.td11 td v) = .ok (.rd32Buf (td.extractLsb' 0 8))) ∧
    (w = true ∧ wide = true ∧ high = false ∧ ¬ misaligned →
      decode (.td11 td v) = .ok (.wr32Buf (td.extractLsb' 0 8) v)) ∧
    (w = false ∧ wide = true ∧ high = true ∧ ¬ misaligned →
      decode (.td11 td v) = .ok (.rd32Reg (td.extractLsb' 0 9))) ∧
    (w = true ∧ wide = true ∧ high = true ∧ ¬ misaligned ∧ td ≠ 0x70C#11 →
      decode (.td11 td v) = .ok (.wr32Reg (td.extractLsb' 0 9) v))

/-- 41_frame_control.md R116, 30_encoding.md R75: a word that fails several checks is read as the first in the order
reserved bit, suppression, IEs, version, destination mode, source mode. -/
def Obligations.FirstFailingCheckGivesTheRow : Prop :=
  ∀ fc : BitVec 16,
    let rsv := fc.getLsbD 7
    let sns := fc.getLsbD 8
    let iep := fc.getLsbD 9
    let fv := fc.extractLsb' 12 2
    let dam := fc.extractLsb' 10 2
    let sam := fc.extractLsb' 14 2
    (rsv = true → decode (.fc16 fc) = .ok (.rejReservedBit fc)) ∧
    (rsv = false ∧ sns = true → decode (.fc16 fc) = .ok (.rejSeqSuppression fc)) ∧
    (rsv = false ∧ sns = false ∧ iep = true → decode (.fc16 fc) = .ok (.rejIePresent fc)) ∧
    (rsv = false ∧ sns = false ∧ iep = false ∧ fv = 1#2 → decode (.fc16 fc) = .ok (.rejVersion1 fc)) ∧
    (rsv = false ∧ sns = false ∧ iep = false ∧ fv = 2#2 → decode (.fc16 fc) = .ok (.rejVersion2 fc)) ∧
    (rsv = false ∧ sns = false ∧ iep = false ∧ fv = 3#2 → decode (.fc16 fc) = .ok (.rejVersion3 fc)) ∧
    (rsv = false ∧ sns = false ∧ iep = false ∧ fv = 0#2 ∧ dam = 1#2 →
      decode (.fc16 fc) = .ok (.rejDstModeReserved fc)) ∧
    (rsv = false ∧ sns = false ∧ iep = false ∧ fv = 0#2 ∧ dam ≠ 1#2 ∧ sam = 1#2 →
      decode (.fc16 fc) = .ok (.rejSrcModeReserved fc)) ∧
    (rsv = false ∧ sns = false ∧ iep = false ∧ fv = 0#2 ∧ dam ≠ 1#2 ∧ sam ≠ 1#2 →
      (fc.extractLsb' 0 3 = 0#3 → decode (.fc16 fc) = .ok (.ftBeacon fc)) ∧
      (fc.extractLsb' 0 3 = 1#3 → decode (.fc16 fc) = .ok (.ftData fc)) ∧
      (fc.extractLsb' 0 3 = 2#3 → decode (.fc16 fc) = .ok (.ftAck fc)) ∧
      (fc.extractLsb' 0 3 = 3#3 → decode (.fc16 fc) = .ok (.ftMacCommand fc)) ∧
      (fc.extractLsb' 0 3 = 4#3 → decode (.fc16 fc) = .ok (.ftReserved fc)) ∧
      (fc.extractLsb' 0 3 = 5#3 → decode (.fc16 fc) = .ok (.ftMultipurpose fc)) ∧
      (fc.extractLsb' 0 3 = 6#3 → decode (.fc16 fc) = .ok (.ftFragment fc)) ∧
      (fc.extractLsb' 0 3 = 7#3 → decode (.fc16 fc) = .ok (.ftExtended fc)))

/-! ## The step and the invariant -/

/-- A step runs the decoded instruction. A host access at the head of the turns is taken off and run; on the block's turn
(no turn listed, or its own at the head) the instruction of the STATE register is run, if BUSY = 1; the engine's event is
presented to S_CCM_WAIT. STATE must hold a code the decoder reads (30_encoding.md R71). How the turns are held is the
model's choice, log entries 1, 6 and 14. -/
def Obligations.StepRunsTheDecodedInstruction : Prop :=
  ∀ (s : State) (j : Instr), decode (.fsm4 s.state) = .ok j →
    (∀ td v rest i, s.turns = .host td v :: rest → decode (.td11 td v) = .ok i →
      step s = exec i { s with turns := rest }) ∧
    (s.turns = [] → s.busy = true → step s = exec j s) ∧
    (∀ rest, s.turns = .block :: rest → s.busy = true → step s = exec j { s with turns := rest }) ∧
    (∀ ok rest, s.turns = .engine ok :: rest →
      step s = exec .sCcmWait { s with turns := rest, ccmDone := some ok })

/-- The turns that are no row of the opcode table: an access of another width is refused like a misaligned one
(20_memory.md R46, R47), the block's turn with BUSY = 0 changes nothing (10_state.md R30), and reset may come in any
state (70_reset_and_hazards.md R230). What reset leaves of the model's own fields is log entry 13. -/
def Obligations.TurnsThatAreNoInstruction : Prop :=
  ∀ (s : State) (j : Instr), decode (.fsm4 s.state) = .ok j →
    (∀ w off rest, s.turns = .otherWidth w off :: rest →
      step s = .next { s with turns := rest, busErr := true, rdata := if w then s.rdata else 0#32 }) ∧
    (s.turns = [] → s.busy = false → step s = .next s) ∧
    (∀ rest, s.turns = .block :: rest → s.busy = false → step s = .next { s with turns := rest }) ∧
    (∀ rest, s.turns = .reset :: rest →
      step s = .next { State.reset with turns := rest, epoch := s.epoch + 1 })

/-- A run that starts with a state code 0xC to 0xE is refused (93_implementation_defined.md row 13). -/
def Obligations.StateCodesNeverEnteredAreRefused : Prop :=
  ∀ s : State, (s.state = 0xC#4 ∨ s.state = 0xD#4 ∨ s.state = 0xE#4 ↔
    step s = .refused (.stateNeverEntered s.state))

/-- The state after reset meets the invariant. -/
def Obligations.ResetMeetsTheInvariant : Prop := Inv State.reset

/-- Every transition keeps the invariant: FRAME_BUF in canonical form, the status bits in agreement with STATE, the valid
bits in agreement with the results, the parse where its state says it is (10_state.md R17, R23, R32; 30_encoding.md R71;
20_memory.md R49), and CFG_PAN 0x0000 until it is written (70_reset_and_hazards.md R233). -/
def Obligations.EveryStepKeepsTheInvariant : Prop :=
  ∀ s t : State, Inv s → step s = .next t → Inv t

/-- From a state that meets the invariant every step answers a next state: no read leaves the frame, and no frame content
stops the machine (20_memory.md R48, 60_exceptions.md R207). -/
def Obligations.NoFrameContentStopsTheMachine : Prop :=
  ∀ s : State, Inv s → s.canStep

/-- 60_exceptions.md R207: a parse left to itself (no other turn between the block's steps) is in S_DONE or S_CCM_WAIT
within 9 FSM steps, and the engine's answer then ends it. A parse with other turns between its steps (20_memory.md R52) is
the subject of EachBlockStepLowersTheMeasure and LaunchedParseEnds. -/
def Obligations.EveryParseEndsWithinNineSteps : Prop :=
  (∀ s : State, Inv s → s.state = FsmCode.fc → s.turns = [] →
    ∃ k t, k ≤ 9 ∧ Host.Core.run Sys2Proof.core k s = .next t ∧ t.parseEnded) ∧
  (∀ (s : State) (ok : Bool) (rest : List Turn), Inv s → s.state = FsmCode.ccmWait → s.turns = .engine ok :: rest →
    ∃ t, step s = .next t ∧ t.state = FsmCode.done ∧ t.res.outcome = if ok then .okData else .authError)

/-- The registers after reset (70_reset_and_hazards.md R230); a byte of FRAME_BUF is unspecified, the model's free value
(log entry 2). The last clauses are the model's choices for its own fields, log entry 13: no reset counted, no turn listed,
no answer of the engine pending, nothing read yet, and CFG_PAN not yet written. -/
def Obligations.ResetLeavesTheStatedValues : Prop :=
  State.reset.frameLen = 0#8 ∧ State.reset.cfgPan = 0#16 ∧ State.reset.irqEn = false ∧
  State.reset.statusWord = 0#32 ∧ State.reset.res.fcWord = 0#32 ∧ State.reset.res.hdrInfoWord = 0#32 ∧
  State.reset.res.panIdWord = 0#32 ∧ State.reset.res.dstAddr = 0#64 ∧ State.reset.res.srcAddr = 0#64 ∧
  State.reset.res.seg0Word = 0#32 ∧ State.reset.res.seg1Word = 0#32 ∧ State.reset.res.frameCounter = 0#32 ∧
  (∀ k : Fin 13, State.reset.res.nonce[k.val] = 0#8) ∧ State.reset.off = 0#8 ∧ State.reset.irq = false ∧
  State.reset.ccmReq = false ∧ State.reset.state = 0x0#4 ∧ State.reset.res.outcome = .none ∧
  (∀ a, State.reset.frameByte a = Config.unwrittenByte 0 a) ∧
  State.reset.epoch = 0 ∧ State.reset.turns = [] ∧ State.reset.ccmDone = none ∧ State.reset.rdata = 0#32 ∧
  State.reset.cfgPanWritten = false

/-! ## The frame buffer (20_memory.md) -/

/-- 20_memory.md R40: byte k of MemRead(a, n) is FRAME_BUF[a+k], and MemRead(a, n) has no other byte. -/
def Obligations.MemReadIsLittleEndian : Prop :=
  ∀ (s : State) (a n : Nat), s.readLe a n < 256 ^ n ∧
    ∀ k, k < n → s.readLe a n / 256 ^ k % 256 = (s.frameByte (a + k)).toNat

/-- FRAME_BUF in canonical form is told apart by its bytes alone, and a write keeps the form and reads back: the memory
model's choice, log entry 2. -/
def Obligations.FrameBufferFormIsCanonical : Prop :=
  (∀ m m' : List Host.Cell, Memory.wf m = true → Memory.wf m' = true →
    (∀ a, Memory.get? m a = Memory.get? m' a) → m = m') ∧
  (∀ (m : List Host.Cell) (a : Nat) (b : Byte), Memory.wf m = true → a < 256 →
    Memory.wf (Memory.set m a b) = true ∧
    ∀ a', Memory.get? (Memory.set m a b) a' = if a' = a then some b else Memory.get? m a')

/-! ## The end of a parse (00_scope.md R8, 60_exceptions.md R205) -/

/-- 00_scope.md R8 (finish), 60_exceptions.md R205: the outcome, the reason and OFF are recorded, DONE is set, BUSY is
cleared and STATE is S_DONE; nothing else changes. -/
def Obligations.FinishRecordsTheDropAndNothingElse : Prop :=
  ∀ (s : State) (o : ParseOutcome) (r : BitVec 8),
    s.finish o r =
      { s with
        state := 0xF#4, busy := false, done := true
        res := { s.res with outcome := o, reason := r, endOff := s.off } }

/-! ## Commands (40_host_commands.md) -/

/-- 40_host_commands.md R93: NOP has no effect, in every state. -/
def Obligations.NopHasNoEffect : Prop :=
  ∀ s : State, exec .nop s = .next s ∧ exec (.wrCmd 0x00000000#32) s = .next s

/-- 40_host_commands.md R94: PARSE starts a parse from a clean result set, or is ignored with CMD_WHILE_BUSY. -/
def Obligations.ParseStartsAParseOrIsIgnored : Prop :=
  ∀ s : State,
    (s.busy = false →
      exec .parse s =
        .next { s with
          res := Results.reset, done := false, ccmReq := false, off := 0#8, busy := true, state := 0x1#4 }) ∧
    (s.busy = true → exec .parse s = .next { s with cmdWhileBusy := true }) ∧
    exec (.wrCmd 0x00000001#32) s = exec .parse s

/-- 40_host_commands.md R95: CLEAR resets the result set and all of STATUS in every state, and keeps FRAME_BUF, FRAME_LEN,
CFG_PAN and CTRL. -/
def Obligations.ClearAbortsAndClears : Prop :=
  ∀ s : State,
    exec .clear s =
      .next { s with
        res := Results.reset, busy := false, done := false, ccmReq := false, wrWhileBusy := false,
        cmdWhileBusy := false, badCmd := false, busErr := false, off := 0#8, state := 0x0#4 } ∧
    exec (.wrCmd 0x00000002#32) s = exec .clear s

/-- 40_host_commands.md R96: any other code sets BAD_CMD only; the whole 32-bit value is compared. -/
def Obligations.UndefinedCommandsSetBadCmdOnly : Prop :=
  ∀ (s : State) (c : Word), c ≠ 0#32 → c ≠ 1#32 → c ≠ 2#32 →
    exec (.cmdUndefined c) s = .next { s with badCmd := true } ∧
    exec (.wrCmd c) s = .next { s with badCmd := true }

/-- 10_state.md R31: nothing of one frame is left after PARSE. Two machines that differ in the results of their last parse,
however it ended, are the same machine after PARSE. -/
def Obligations.NothingOfAFrameSurvivesParse : Prop :=
  ∀ (s : State) (r : Results) (o : BitVec 8) (d : Bool) (st : BitVec 4), s.busy = false →
    exec .parse { s with res := r, off := o, done := d, state := st } = exec .parse s

/-! ## Host transactions (40_host_commands.md, 20_memory.md) -/

/-- 20_memory.md R47: a 32-bit access at an offset that is not a multiple of 4, an 8-bit access at 0x100 or above, and an
access of any other width set BUS_ERR, return 0 if they read, and do nothing else. (An access of another width is a turn
of its own, log entry 12.) -/
def Obligations.RefusedAccessesSetBusErrOnly : Prop :=
  ∀ s : State,
    let refused (w : Bool) : State := { s with busErr := true, rdata := if w then s.rdata else 0#32 }
    (∀ w off, exec (.refusedMisalignedBit0 w off) s = .next (refused w) ∧
      exec (.refusedMisalignedBit1 w off) s = .next (refused w) ∧ exec (.refusedByteReg w off) s = .next (refused w)) ∧
    (∀ (td : BitVec 11) v,
      (td.getLsbD 9 = true ∧ td.extractLsb' 0 2 ≠ 0#2) ∨ (td.getLsbD 9 = false ∧ td.getLsbD 8 = true) →
      ∃ i, decode (.td11 td v) = .ok i ∧ exec i s = .next (refused (td.getLsbD 10))) ∧
    (∀ w off rest j, decode (.fsm4 s.state) = .ok j → s.turns = .otherWidth w off :: rest →
      step s = .next { refused w with turns := rest })

/-- 40_host_commands.md R90: an 8-bit read of FRAME_BUF returns the byte and changes nothing else, busy or not. That the
value returned is kept, and that the byte stands in bits 7:0 of it with zeros above, is the model's choice, log entry 5. -/
def Obligations.Rd8ReturnsTheByte : Prop :=
  ∀ (s : State) (a : BitVec 8),
    exec (.rd8 a) s = .next { s with rdata := (s.frameByte a.toNat).setWidth 32 }

/-- 20_memory.md R44: a 32-bit read of FRAME_BUF at an aligned offset returns four bytes, byte a in bits 7:0; at another
offset it is refused (R47). -/
def Obligations.Rd32BufReturnsFourBytesLittleEndian : Prop :=
  ∀ (s : State) (a : BitVec 8),
    (a.toNat % 4 = 0 →
      exec (.rd32Buf a) s =
        .next { s with
          rdata := s.frameByte (a.toNat + 3) ++ s.frameByte (a.toNat + 2) ++ s.frameByte (a.toNat + 1) ++
            s.frameByte a.toNat }) ∧
    (a.toNat % 4 ≠ 0 → exec (.rd32Buf a) s = .next { s with busErr := true, rdata := 0#32 })

/-- 20_memory.md R45, R36: a register read at an aligned offset returns the register, reserved bits and reserved offsets 0,
CMD 0, and changes nothing; at another offset it is refused (R47). -/
def Obligations.Rd32RegReturnsTheRegister : Prop :=
  ∀ s : State,
    (∀ off : BitVec 9, off.toNat % 4 = 0 →
      exec (.rd32Reg off) s = .next { s with rdata := s.readRegister off }) ∧
    (∀ off : BitVec 9, off.toNat % 4 ≠ 0 → exec (.rd32Reg off) s = .next { s with busErr := true, rdata := 0#32 }) ∧
    s.readRegister 0x100#9 = 0#24 ++ s.frameLen ∧ s.readRegister 0x104#9 = 0#16 ++ s.cfgPan ∧
    s.readRegister 0x108#9 = 0#31 ++ BitVec.ofBool s.irqEn ∧ s.readRegister 0x10C#9 = 0#32 ∧
    s.readRegister 0x110#9 = s.statusWord ∧ s.readRegister 0x114#9 = 0#16 ++ s.res.fcRaw ∧
    s.readRegister 0x118#9 = s.res.hdrInfoWord ∧ s.readRegister 0x11C#9 = 0#16 ++ s.res.panId ∧
    s.readRegister 0x120#9 = s.res.dstAddr.extractLsb' 0 32 ∧ s.readRegister 0x124#9 = s.res.dstAddr.extractLsb' 32 32 ∧
    s.readRegister 0x128#9 = s.res.srcAddr.extractLsb' 0 32 ∧ s.readRegister 0x12C#9 = s.res.srcAddr.extractLsb' 32 32 ∧
    s.readRegister 0x130#9 = s.res.seg0Word ∧ s.readRegister 0x134#9 = s.res.seg1Word ∧
    s.readRegister 0x138#9 = s.res.frameCounter ∧
    s.readRegister 0x13C#9 = s.res.nonce[3] ++ s.res.nonce[2] ++ s.res.nonce[1] ++ s.res.nonce[0] ∧
    s.readRegister 0x140#9 = s.res.nonce[7] ++ s.res.nonce[6] ++ s.res.nonce[5] ++ s.res.nonce[4] ∧
    s.readRegister 0x144#9 = s.res.nonce[11] ++ s.res.nonce[10] ++ s.res.nonce[9] ++ s.res.nonce[8] ∧
    s.readRegister 0x148#9 = 0#24 ++ s.res.nonce[12] ∧
    (∀ off : BitVec 9, 0x14C ≤ off.toNat → off.toNat % 4 = 0 → s.readRegister off = 0#32)

/-- 10_state.md R17: the fields of STATUS, bit by bit, and 30_encoding.md R72: the seven codes of OUTCOME. -/
def Obligations.StatusWordHoldsItsFields : Prop :=
  ∀ s : State,
    s.statusWord.getLsbD 0 = s.busy ∧ s.statusWord.getLsbD 1 = s.done ∧ s.statusWord.getLsbD 2 = s.ccmReq ∧
    s.statusWord.getLsbD 3 = false ∧ s.statusWord.extractLsb' 4 4 = s.res.outcome.code ∧
    s.statusWord.extractLsb' 8 8 = s.res.reason ∧ s.statusWord.extractLsb' 16 4 = s.state ∧
    s.statusWord.getLsbD 20 = s.wrWhileBusy ∧ s.statusWord.getLsbD 21 = s.cmdWhileBusy ∧
    s.statusWord.getLsbD 22 = s.badCmd ∧ s.statusWord.getLsbD 23 = s.busErr ∧
    s.statusWord.extractLsb' 24 8 = s.res.endOff ∧
    (∀ o : ParseOutcome, o.code =
      match o with
      | .none => 0x0#4
      | .okData => 0x1#4
      | .okAck => 0x2#4
      | .notDecoded => 0x3#4
      | .structuralError => 0x4#4
      | .filterMiss => 0x5#4
      | .authError => 0x6#4)

/-- 10_state.md R19, R24: the fields of HDRINFO, SEG0 and SEG1, bit by bit. -/
def Obligations.HeaderAndSegmentWordsHoldTheirFields : Prop :=
  ∀ r : Results,
    let h := r.hdrInfoWord
    (h.extractLsb' 0 8 = r.seq ∧ h.getLsbD 8 = r.seqValid ∧ h.getLsbD 9 = r.panValid ∧ h.getLsbD 10 = r.bcast ∧
      h.getLsbD 11 = r.fcValid ∧ h.extractLsb' 12 2 = addrKindCode r.dstKind ∧
      h.extractLsb' 14 2 = addrKindCode r.srcKind ∧ h.extractLsb' 16 8 = r.hdrLen ∧ h.getLsbD 24 = r.segValid ∧
      h.getLsbD 25 = r.nonceValid ∧ h.getLsbD 26 = r.hdrValid ∧ h.extractLsb' 27 5 = 0#5) ∧
    (r.seg0Word.extractLsb' 0 8 = r.payOff ∧ r.seg0Word.extractLsb' 8 8 = r.payLen ∧
      r.seg0Word.extractLsb' 16 8 = r.ctLen ∧ r.seg0Word.extractLsb' 24 8 = r.adLen) ∧
    (r.seg1Word.extractLsb' 0 8 = r.tagOff ∧ r.seg1Word.extractLsb' 8 8 = r.ctrOff ∧
      r.seg1Word.extractLsb' 16 16 = 0#16) ∧
    (∀ k : AddrKind, addrKindCode k = match k with | .none => 0#2 | .short => 2#2 | .long => 3#2)

/-- 40_host_commands.md R91 for 8-bit writes: while BUSY = 1 the write is dropped with WR_WHILE_BUSY; else bits 7:0 are
stored, every other byte reads as before, and nothing else changes. -/
def Obligations.Wr8StoresOneByteOrIsDropped : Prop :=
  ∀ (s : State) (a : BitVec 8) (v : Word),
    (s.busy = true → exec (.wr8 a v) s = .next { s with wrWhileBusy := true }) ∧
    (s.busy = false → ∃ m, exec (.wr8 a v) s = .next { s with frameBuf := m } ∧
      ∀ b : Nat, { s with frameBuf := m : State }.frameByte b =
        if b = a.toNat then v.extractLsb' 0 8 else s.frameByte b)

/-- 40_host_commands.md R91 for 32-bit writes: refused when misaligned, dropped with WR_WHILE_BUSY while BUSY = 1; else the
four bytes are stored, every other byte reads as before, and nothing else changes. -/
def Obligations.Wr32BufStoresFourBytesOrIsDropped : Prop :=
  ∀ (s : State) (a : BitVec 8) (v : Word),
    (a.toNat % 4 ≠ 0 → exec (.wr32Buf a v) s = .next { s with busErr := true }) ∧
    (a.toNat % 4 = 0 → s.busy = true → exec (.wr32Buf a v) s = .next { s with wrWhileBusy := true }) ∧
    (a.toNat % 4 = 0 → s.busy = false → ∃ m, exec (.wr32Buf a v) s = .next { s with frameBuf := m } ∧
      (∀ k, k < 4 → { s with frameBuf := m : State }.frameByte (a.toNat + k) = v.extractLsb' (8 * k) 8) ∧
      (∀ b : Nat, b < a.toNat ∨ a.toNat + 4 ≤ b → { s with frameBuf := m : State }.frameByte b = s.frameByte b))

/-- 40_host_commands.md R92: register writes. FRAME_LEN and CFG_PAN are dropped with WR_WHILE_BUSY while BUSY = 1, CTRL is
writable at any time, bits above a field's width are dropped, the other aligned offsets have no effect, and a misaligned
offset is refused. That a write of CFG_PAN is recorded is the model's own, log entry 19. -/
def Obligations.Wr32RegWritesTheWritableFields : Prop :=
  ∀ (s : State) (off : BitVec 9) (v : Word),
    (off.toNat % 4 ≠ 0 → exec (.wr32Reg off v) s = .next { s with busErr := true }) ∧
    (off = 0x100#9 → s.busy = false → exec (.wr32Reg off v) s = .next { s with frameLen := v.extractLsb' 0 8 }) ∧
    (off = 0x104#9 → s.busy = false →
      exec (.wr32Reg off v) s = .next { s with cfgPan := v.extractLsb' 0 16, cfgPanWritten := true }) ∧
    (off = 0x100#9 ∨ off = 0x104#9 → s.busy = true → exec (.wr32Reg off v) s = .next { s with wrWhileBusy := true }) ∧
    (off = 0x108#9 → exec (.wr32Reg off v) s = .next { s with irqEn := v.getLsbD 0 }) ∧
    (off.toNat % 4 = 0 → off ≠ 0x100#9 → off ≠ 0x104#9 → off ≠ 0x108#9 → exec (.wr32Reg off v) s = .next s)

/-- 60_exceptions.md R210: `irq` is the level IRQ_EN and DONE: it rises with the end of a parse when enabled, follows a
write of CTRL, and falls with PARSE and CLEAR. -/
def Obligations.IrqFollowsDoneWhenEnabled : Prop :=
  ∀ (s t : State),
    s.irq = (s.irqEn && s.done) ∧ (∀ o r, (s.finish o r).irq = s.irqEn) ∧
    (s.busy = false → exec .parse s = .next t → t.irq = false) ∧
    (exec .clear s = .next t → t.irq = false) ∧
    (∀ v, exec (.wr32Reg 0x108#9 v) s = .next t → t.irq = (v.getLsbD 0 && s.done))

/-! ## Frame control (41_frame_control.md) -/

/-- 41_frame_control.md R110: S_FC rejects a frame shorter than the field, and else runs the row of the little-endian
word in FRAME_BUF[0] and FRAME_BUF[1]. -/
def Obligations.SFcChecksTheLengthThenRunsItsRow : Prop :=
  ∀ s : State,
    (s.frameLen.toNat < 2 → exec .sFc s = .next (s.finish .structuralError 0x01#8)) ∧
    (2 ≤ s.frameLen.toNat → ∃ i t, decode (.fc16 (s.frameByte 1 ++ s.frameByte 0)) = .ok i ∧
      exec .sFc s = exec i s ∧ exec .sFc s = .next t)

/-- 41_frame_control.md R111 to R115, R117, R118: each rejection captures the word and ends the parse with its reason, with
END_OFF = 2, and changes nothing else. -/
def Obligations.RejectedWordsAreCapturedAndDropped : Prop :=
  ∀ (s : State) (fc : BitVec 16),
    let t (r : BitVec 8) : State :=
      { s with
        off := 2#8, state := 0xF#4, busy := false, done := true
        res := { s.res with fcRaw := fc, fcValid := true, outcome := .structuralError, reason := r, endOff := 2#8 } }
    exec (.rejReservedBit fc) s = .next (t 0x02#8) ∧ exec (.rejSeqSuppression fc) s = .next (t 0x03#8) ∧
    exec (.rejIePresent fc) s = .next (t 0x04#8) ∧ exec (.rejVersion1 fc) s = .next (t 0x05#8) ∧
    exec (.rejVersion2 fc) s = .next (t 0x05#8) ∧ exec (.rejVersion3 fc) s = .next (t 0x05#8) ∧
    exec (.rejDstModeReserved fc) s = .next (t 0x06#8) ∧ exec (.rejSrcModeReserved fc) s = .next (t 0x07#8)

/-- 41_frame_control.md R119: a data frame goes to S_SEQ and an acknowledgment to S_ACK; every other type ends the parse with
NOT_DECODED, REASON = FT and END_OFF = 2. -/
def Obligations.FrameTypesAreDispatched : Prop :=
  ∀ (s : State) (fc : BitVec 16),
    let go (st : BitVec 4) : State :=
      { s with off := 2#8, state := st, res := { s.res with fcRaw := fc, fcValid := true } }
    let stop (r : BitVec 8) : State :=
      { s with
        off := 2#8, state := 0xF#4, busy := false, done := true
        res := { s.res with fcRaw := fc, fcValid := true, outcome := .notDecoded, reason := r, endOff := 2#8 } }
    exec (.ftData fc) s = .next (go 0x3#4) ∧ exec (.ftAck fc) s = .next (go 0x2#4) ∧
    ((Instr.ftBeacon fc).wellFormed = true → exec (.ftBeacon fc) s = .next (stop 0x00#8)) ∧
    ((Instr.ftMacCommand fc).wellFormed = true → exec (.ftMacCommand fc) s = .next (stop 0x03#8)) ∧
    ((Instr.ftReserved fc).wellFormed = true → exec (.ftReserved fc) s = .next (stop 0x04#8)) ∧
    ((Instr.ftMultipurpose fc).wellFormed = true → exec (.ftMultipurpose fc) s = .next (stop 0x05#8)) ∧
    ((Instr.ftFragment fc).wellFormed = true → exec (.ftFragment fc) s = .next (stop 0x06#8)) ∧
    ((Instr.ftExtended fc).wellFormed = true → exec (.ftExtended fc) s = .next (stop 0x07#8))

/-- 41_frame_control.md R120: S_ACK reads the sequence number if there is one and ends with OK_ACK. -/
def Obligations.SAckReadsSeqAndEnds : Prop :=
  ∀ s : State,
    (3 ≤ s.frameLen.toNat →
      exec .sAck s =
        .next { s with
          off := 3#8, state := 0xF#4, busy := false, done := true
          res := { s.res with
            seq := s.frameByte 2, seqValid := true, outcome := .okAck, reason := 0x00#8, endOff := 3#8 } }) ∧
    (s.frameLen.toNat < 3 → exec .sAck s = .next (s.finish .okAck 0x00#8))

/-! ## Addressing (42_addressing.md) -/

/-- 42_addressing.md R130: S_SEQ reads the sequence number, or drops the frame (entered with OFF = 2). -/
def Obligations.SSeqReadsTheSequenceNumber : Prop :=
  ∀ s : State, s.off = 2#8 →
    (s.frameLen.toNat < 3 → exec .sSeq s = .next (s.finish .structuralError 0x08#8)) ∧
    (3 ≤ s.frameLen.toNat →
      exec .sSeq s =
        .next { s with off := 3#8, state := 0x4#4, res := { s.res with seq := s.frameByte 2, seqValid := true } })

/-- 42_addressing.md R131, R137: S_DST runs the row of DAM and S_SRC the row of SAM, and answers a next state; the reserved
mode, which cannot occur there, is refused by name (log entry 8). -/
def Obligations.AddressStatesRunTheRowOfTheirMode : Prop :=
  ∀ s : State,
    (∀ i, decode (.dst16 s.res.fcRaw) = .ok i → ∃ t, exec .sDst s = exec i s ∧ exec .sDst s = .next t) ∧
    (∀ i, decode (.src16 s.res.fcRaw) = .ok i → ∃ t, exec .sSrc s = exec i s ∧ exec .sSrc s = .next t) ∧
    (s.res.fcRaw.extractLsb' 10 2 = 1#2 ↔ exec .sDst s = .refused .reservedAddressingMode) ∧
    (s.res.fcRaw.extractLsb' 14 2 = 1#2 ↔ exec .sSrc s = .refused .reservedAddressingMode)

/-- 42_addressing.md R131, R132, R133, R134: the three destination modes. None reads nothing; Short and Long read the PAN and
then the address, drop a truncated frame with the PAN kept, and only Short with both values 0xFFFF is broadcast. -/
def Obligations.DestinationFieldsAreReadByMode : Prop :=
  ∀ (s : State) (fc : BitVec 16),
    let o := s.off.toNat
    let l := s.frameLen.toNat
    let pan := BitVec.ofNat 16 (s.readLe o 2)
    let a := BitVec.ofNat 16 (s.readLe (o + 2) 2)
    let afterPan : State :=
      { s with off := BitVec.ofNat 8 (o + 2), res := { s.res with panId := pan, panValid := true } }
    exec (.damNone fc) s = .next { s with state := 0x6#4, res := { s.res with dstKind := .none } } ∧
    (l < o + 2 →
      exec (.damShort fc) s = .next (s.finish .structuralError 0x09#8) ∧
      exec (.damLong fc) s = .next (s.finish .structuralError 0x09#8)) ∧
    (o + 2 ≤ l → l < o + 4 → exec (.damShort fc) s = .next (afterPan.finish .structuralError 0x0A#8)) ∧
    (o + 2 ≤ l → l < o + 10 → exec (.damLong fc) s = .next (afterPan.finish .structuralError 0x0A#8)) ∧
    (o + 4 ≤ l → pan = 0xFFFF#16 ∧ a = 0xFFFF#16 →
      exec (.damShort fc) s =
        .next { s with
          off := BitVec.ofNat 8 (o + 4), state := 0x5#4
          res := { s.res with
            panId := pan, panValid := true, dstKind := .short, dstAddr := 0xFFFFFFFFFFFFFFFF#64, bcast := true } }) ∧
    (o + 4 ≤ l → ¬ (pan = 0xFFFF#16 ∧ a = 0xFFFF#16) →
      exec (.damShort fc) s =
        .next { s with
          off := BitVec.ofNat 8 (o + 4), state := 0x6#4
          res := { s.res with panId := pan, panValid := true, dstKind := .short, dstAddr := a.setWidth 64 } }) ∧
    (o + 10 ≤ l →
      exec (.damLong fc) s =
        .next { s with
          off := BitVec.ofNat 8 (o + 10), state := 0x6#4
          res := { s.res with
            panId := pan, panValid := true, dstKind := .long, dstAddr := BitVec.ofNat 64 (s.readLe (o + 2) 8) } })

/-- 42_addressing.md R135: the broadcast source PAN replaces the destination PAN. -/
def Obligations.SSrcPanReplacesThePan : Prop :=
  ∀ s : State,
    (s.frameLen.toNat < s.off.toNat + 2 → exec .sSrcPan s = .next (s.finish .structuralError 0x0B#8)) ∧
    (s.off.toNat + 2 ≤ s.frameLen.toNat →
      exec .sSrcPan s =
        .next { s with
          off := BitVec.ofNat 8 (s.off.toNat + 2), state := 0x6#4
          res := { s.res with panId := BitVec.ofNat 16 (s.readLe s.off.toNat 2) } })

/-- 42_addressing.md R137 to R141: the three source modes, and HDR_LEN = OFF at the end. -/
def Obligations.SourceFieldsAreReadByMode : Prop :=
  ∀ (s : State) (fc : BitVec 16),
    let o := s.off.toNat
    let l := s.frameLen.toNat
    let after (n : Nat) (k : AddrKind) (v : BitVec 64) : State :=
      { s with
        off := BitVec.ofNat 8 (o + n), state := 0x7#4
        res := { s.res with srcKind := k, srcAddr := v, hdrLen := BitVec.ofNat 8 (o + n), hdrValid := true } }
    exec (.samNone fc) s =
      .next { s with state := 0x7#4, res := { s.res with srcKind := .none, hdrLen := s.off, hdrValid := true } } ∧
    (l < o + 2 → exec (.samShort fc) s = .next (s.finish .structuralError 0x0C#8)) ∧
    (l < o + 8 → exec (.samLong fc) s = .next (s.finish .structuralError 0x0C#8)) ∧
    (o + 2 ≤ l → exec (.samShort fc) s = .next (after 2 .short ((BitVec.ofNat 16 (s.readLe o 2)).setWidth 64))) ∧
    (o + 8 ≤ l → exec (.samLong fc) s = .next (after 8 .long (BitVec.ofNat 64 (s.readLe o 8))))

/-- 42_addressing.md R142, R143: the payload region, or the drop NO_PAYLOAD_ROOM. -/
def Obligations.SBoundSetsThePayloadRegion : Prop :=
  ∀ s : State,
    (s.frameLen.toNat < s.off.toNat + 2 → exec .sBound s = .next (s.finish .structuralError 0x0D#8)) ∧
    (s.off.toNat + 2 ≤ s.frameLen.toNat → ∃ n : BitVec 8, n.toNat + 2 + s.off.toNat = s.frameLen.toNat ∧
      exec .sBound s =
        .next { s with state := 0x8#4, res := { s.res with payOff := s.off, adLen := s.off, payLen := n } })

/-- 42_addressing.md R145, R146, 30_encoding.md R67: from S_DST, by the block's own steps (no other turn between them), a data
frame long enough for every field its modes and the
broadcast test ask for leaves S_SRC with OFF = HDR_LEN equal to the table's entry, whatever else the frame holds. -/
def Obligations.HeaderLengthIsTheTablesEntry : Prop :=
  ∀ s : State, Inv s → s.state = FsmCode.dst → s.turns = [] →
    let dam := s.res.fcRaw.extractLsb' 10 2
    let sam := s.res.fcRaw.extractLsb' 14 2
    let bc : Bool := decide (dam = 2#2 ∧ s.readLe 3 2 = 0xFFFF ∧ s.readLe 5 2 = 0xFFFF)
    headerLength s.res.fcRaw bc ≤ s.frameLen.toNat →
    ∃ k t, k ≤ 3 ∧ Host.Core.run Sys2Proof.core k s = .next t ∧ t.state = FsmCode.bound ∧ t.res.hdrLen = t.off ∧
      t.res.hdrValid = true ∧ t.res.bcast = bc ∧ t.off.toNat = headerLength s.res.fcRaw bc ∧
      (dam = 0#2 → sam = 0#2 → t.off = 3#8) ∧ (dam = 0#2 → sam = 2#2 → t.off = 5#8) ∧
      (dam = 0#2 → sam = 3#2 → t.off = 11#8) ∧
      (dam = 2#2 → bc = false → sam = 0#2 → t.off = 7#8) ∧ (dam = 2#2 → bc = false → sam = 2#2 → t.off = 9#8) ∧
      (dam = 2#2 → bc = false → sam = 3#2 → t.off = 15#8) ∧
      (bc = true → sam = 0#2 → t.off = 9#8) ∧ (bc = true → sam = 2#2 → t.off = 11#8) ∧
      (bc = true → sam = 3#2 → t.off = 17#8) ∧
      (dam = 3#2 → sam = 0#2 → t.off = 13#8) ∧ (dam = 3#2 → sam = 2#2 → t.off = 15#8) ∧
      (dam = 3#2 → sam = 3#2 → t.off = 21#8)

/-! ## The PAN filter (43_pan_filter.md) -/

/-- 43_pan_filter.md R160: absent before mismatch, and only an equal PAN goes on. -/
def Obligations.SFilterPassesOnlyTheConfiguredPan : Prop :=
  ∀ s : State,
    (s.res.panValid = false → exec .sFilter s = .next (s.finish .filterMiss 0x11#8)) ∧
    (s.res.panValid = true → s.res.panId ≠ s.cfgPan → exec .sFilter s = .next (s.finish .filterMiss 0x10#8)) ∧
    (s.res.panValid = true → s.res.panId = s.cfgPan → exec .sFilter s = .next { s with state := 0x9#4 })

/-- 43_pan_filter.md R161: no nonce is built and no request raised for a frame that missed the filter, and the engine is asked
only for a frame whose PAN is the configured one. -/
def Obligations.NoRequestForAForeignPan : Prop :=
  ∀ s t : State, Inv s → step s = .next t →
    (t.res.outcome = .filterMiss → t.res.nonceValid = false ∧ t.ccmReq = false) ∧
    (t.ccmReq = true → t.res.panValid = true ∧ t.res.panId = t.cfgPan ∧ t.res.srcKind = .long)

/-! ## Segments and nonce (44_segment_nonce.md) -/

/-- 44_segment_nonce.md R170: the segmentation, or the drop PAYLOAD_TOO_SHORT. The premise is where S_FILTER leaves a parse:
the payload lies inside the frame. -/
def Obligations.SSegmentSplitsThePayload : Prop :=
  ∀ s : State, s.res.payOff.toNat + s.res.payLen.toNat ≤ s.frameLen.toNat →
    let c := s.res.payOff.toNat + s.res.payLen.toNat - 4
    (s.res.payLen.toNat < 8 → exec .sSegment s = .next (s.finish .structuralError 0x0E#8)) ∧
    (8 ≤ s.res.payLen.toNat →
      exec .sSegment s =
        .next { s with
          state := 0xA#4
          res := { s.res with
            ctLen := s.res.payLen - 8#8, tagOff := s.res.payOff + s.res.payLen - 8#8,
            ctrOff := s.res.payOff + s.res.payLen - 4#8, frameCounter := BitVec.ofNat 32 (s.readLe c 4),
            segValid := true } })

/-- 44_segment_nonce.md R173: only an extended source reaches the engine. The premise is where S_SEGMENT leaves a parse: the
counter lies inside the frame. -/
def Obligations.SNonceBuildsTheNonceAndAsksTheEngine : Prop :=
  ∀ s : State, s.res.ctrOff.toNat + 4 ≤ s.frameLen.toNat →
    (s.res.srcKind ≠ .long → exec .sNonce s = .next (s.finish .structuralError 0x0F#8)) ∧
    (s.res.srcKind = .long →
      exec .sNonce s =
        .next { s with
          state := 0xB#4, ccmReq := true
          res := { s.res with
            nonce := buildNonce Config.nonceAddrOrder Config.noncePad s.counterBytes s.res.srcAddr,
            nonceValid := true } })

/-- 44_segment_nonce.md R174: the thirteen nonce bytes, for either address order and every pad. -/
def Obligations.NonceBytesAreTheRules : Prop :=
  ∀ (pad : Byte) (s : State),
    let c := s.res.ctrOff.toNat
    let a := s.res.srcAddr
    let wire := buildNonce .wire pad s.counterBytes a
    let decoded := buildNonce .decoded pad s.counterBytes a
    (∀ i : Fin 4, wire[i.val] = s.frameByte (c + i.val) ∧ decoded[i.val] = s.frameByte (c + i.val)) ∧
    (∀ i : Fin 8, wire[4 + i.val] = a.extractLsb' (8 * i.val) 8 ∧
      decoded[4 + i.val] = a.extractLsb' (56 - 8 * i.val) 8) ∧
    wire[12] = pad ∧ decoded[12] = pad

/-- 44_segment_nonce.md R180: for a fixed source address distinct counter bytes give distinct nonces, whatever the two OPEN
parameters are; and for fixed counter bytes distinct source addresses do too. -/
def Obligations.NoncesAreInjective : Prop :=
  ∀ (order : AddrOrder) (pad : Byte) (c c' : Vector Byte 4) (a a' : BitVec 64),
    buildNonce order pad c a = buildNonce order pad c' a' → c = c' ∧ a = a'

/-- 44_segment_nonce.md R171: once segmented, associated data, ciphertext, tag and counter are adjacent, in that order, and
together are the bytes [0, FRAME_LEN - 2). The nonce handed to the engine is the one built of that counter and the source
address (R174, R176). -/
def Obligations.SegmentsTileTheFrame : Prop :=
  ∀ s : State, Inv s → s.state = FsmCode.nonce ∨ s.state = FsmCode.ccmWait →
    s.res.ctrOff.toNat + 4 = s.res.payOff.toNat + s.res.payLen.toNat ∧
    s.res.payOff.toNat + s.res.payLen.toNat = s.frameLen.toNat - 2 ∧
    s.res.tagOff.toNat = s.res.payOff.toNat + s.res.ctLen.toNat ∧
    s.ccmOperands.associatedData ++ s.ccmOperands.ciphertext ++ s.ccmOperands.tag ++ s.counterBytes.toList =
      s.frameSlice 0 (s.frameLen.toNat - 2) ∧
    s.ccmOperands.nonce = s.res.nonce ∧
    (s.state = FsmCode.ccmWait →
      s.ccmOperands.nonce = buildNonce Config.nonceAddrOrder Config.noncePad s.counterBytes s.res.srcAddr)

/-- 44_segment_nonce.md R177: the engine's answer ends the parse in S_CCM_WAIT and is ignored in every other state; without an
answer S_CCM_WAIT waits. -/
def Obligations.SCcmWaitTakesTheEnginesAnswer : Prop :=
  ∀ s : State,
    (s.ccmDone = none → exec .sCcmWait s = .next s) ∧
    (s.ccmDone = some true → s.state = 0xB#4 →
      exec .sCcmWait s = .next ({ s with ccmDone := none, ccmReq := false : State }.finish .okData 0x00#8)) ∧
    (s.ccmDone = some false → s.state = 0xB#4 →
      exec .sCcmWait s = .next ({ s with ccmDone := none, ccmReq := false : State }.finish .authError 0x20#8)) ∧
    (s.state ≠ 0xB#4 → exec .sCcmWait s = .next { s with ccmDone := none })

/-- 10_state.md R30: S_IDLE and S_DONE have no step. -/
def Obligations.RestingStatesHaveNoStep : Prop :=
  ∀ s : State, exec .sIdle s = .next s ∧ exec .sDone s = .next s

/-! ## Rules about the whole machine -/

/-- 20_memory.md R54: while BUSY = 1 no transition but reset changes FRAME_BUF, FRAME_LEN or CFG_PAN. -/
def Obligations.InputsAreStableDuringAParse : Prop :=
  ∀ s t : State, s.busy = true → (∀ rest, s.turns ≠ .reset :: rest) → step s = .next t →
    t.frameBuf = s.frameBuf ∧ t.epoch = s.epoch ∧ t.frameLen = s.frameLen ∧ t.cfgPan = s.cfgPan

/-- 20_memory.md R53: once DONE = 1 the result set stays as it is until PARSE or CLEAR is written to CMD, or reset. -/
def Obligations.ResultsStayUntilParseOrClear : Prop :=
  ∀ s t : State, Inv s → s.done = true → step s = .next t →
    (∀ rest, s.turns ≠ .reset :: rest) →
    (∀ v rest, s.turns = .host 0x70C#11 v :: rest → v ≠ 1#32 ∧ v ≠ 2#32) →
    t.res = s.res ∧ t.done = true ∧ t.state = FsmCode.done

/-- 30_encoding.md R74: a parse starts only by PARSE. From S_IDLE or S_DONE, only the write of PARSE or CLEAR to CMD, or a
reset, changes STATE, and S_FC is entered by PARSE alone. -/
def Obligations.OnlyParseStartsAParse : Prop :=
  ∀ s t : State, Inv s → step s = .next t →
    (s.busy = false → t.state ≠ s.state →
      (∃ v rest, s.turns = .host 0x70C#11 v :: rest ∧ (v = 1#32 ∨ v = 2#32)) ∨ ∃ rest, s.turns = .reset :: rest) ∧
    (t.state = FsmCode.fc → s.state ≠ FsmCode.fc →
      s.busy = false ∧ ∃ rest, s.turns = .host 0x70C#11 1#32 :: rest)

/-- 10_state.md R12, 93_implementation_defined.md rows 1 and 2: a step of the FSM depends on the bytes below FRAME_LEN only.
Two machines whose frames agree there, and that differ in the bytes beyond and in what unwritten bytes hold, take the same
step. -/
def Obligations.BytesBeyondTheFrameNeverMatter : Prop :=
  ∀ (s t : State) (m : List Host.Cell) (e : Nat), Inv s → s.turns = [] →
    (∀ a, a < s.frameLen.toNat → { s with frameBuf := m, epoch := e : State }.frameByte a = s.frameByte a) →
    step s = .next t → step { s with frameBuf := m, epoch := e } = .next { t with frameBuf := m, epoch := e }

/-! ## The CCM operands, the launch premise and the progress of a parse -/

/-- 44_segment_nonce.md R176, 10_state.md R34: the four operands handed to the engine, byte by byte: the nonce is NONCE, the
associated data the AD_LEN bytes from 0, the ciphertext the CT_LEN bytes from PAY_OFF, the tag the four bytes from TAG_OFF. -/
def Obligations.CcmOperandsAreTheRulesBytes : Prop :=
  ∀ s : State,
    let slice (l : List Byte) (a n : Nat) : Prop := l.length = n ∧ ∀ k, k < n → l[k]? = some (s.frameByte (a + k))
    s.ccmOperands.nonce = s.res.nonce ∧
    slice s.ccmOperands.associatedData 0 s.res.adLen.toNat ∧
    slice s.ccmOperands.ciphertext s.res.payOff.toNat s.res.ctLen.toNat ∧
    slice s.ccmOperands.tag s.res.tagOff.toNat 4

/-- 60_exceptions.md R207, 30_encoding.md R74, 20_memory.md R52: in a parse every step of the block lowers the steps left, of
which there are at most 9; a turn of the host or the engine between them keeps their number (all but CLEAR and reset, which
abort the parse); and a parse with none left is in S_DONE or S_CCM_WAIT. -/
def Obligations.EachBlockStepLowersTheMeasure : Prop :=
  ∀ s t : State, Inv s → s.busy = true → step s = .next t →
    stepsLeft s.state ≤ 9 ∧
    (s.turns = [] ∨ (∃ rest, s.turns = .block :: rest) → 0 < stepsLeft s.state →
      stepsLeft t.state < stepsLeft s.state) ∧
    (∀ u rest, s.turns = u :: rest → u ≠ .block → u ≠ .reset → u ≠ .host 0x70C#11 2#32 →
      t.turns = rest ∧ stepsLeft t.state = stepsLeft s.state) ∧
    (stepsLeft s.state = 0 ↔ s.parseEnded)

/-- 70_reset_and_hazards.md R234 as one named premise, and R232, 60_exceptions.md R207: a parse launched under it, in
every interleaving with nine turns of the block and no PARSE, CLEAR or reset, ends with an outcome, and its results do not
depend on what the bytes no write has set hold. A PARSE that 40_host_commands.md R94 ignores while busy is left out here
too; EachBlockStepLowersTheMeasure covers it, step by step. -/
def Obligations.LaunchedParseEnds : Prop :=
  ∀ (s : State) (rest : List Turn), Inv s → s.turns = .host 0x70C#11 1#32 :: rest → LaunchPremise s →
    9 ≤ rest.count .block →
    (∀ u ∈ rest, u ≠ .reset ∧ u ≠ .host 0x70C#11 1#32 ∧ u ≠ .host 0x70C#11 2#32) →
    ∃ t, Host.Core.run Sys2Proof.core (rest.length + 1) s = .next t ∧ t.done = true ∧ t.res.outcome ≠ .none ∧
      ∀ e, ∃ t', Host.Core.run Sys2Proof.core (rest.length + 1) { s with epoch := e } = .next t' ∧
        t'.done = true ∧ t'.res = t.res
end

