-- ==== Sys2Proof/Laws/Decode.lean ====
section
/-! SUPPORT. The fields of descriptors and frame-control words, and what the classifiers answer. -/

namespace Sys2Proof

/-! ## Frame-control fields -/

theorem fcHas_iff (fc : BitVec 16) (hi lo : Nat) (v : BitVec (hi + 1 - lo)) :
    fcHas fc hi lo v.toNat = true ↔ fc.extractLsb' lo (hi + 1 - lo) = v := by
  simp only [fcHas, beq_iff_eq]
  exact ⟨BitVec.eq_of_toNat_eq, fun h => congrArg BitVec.toNat h⟩

theorem fcHas_RSV (fc : BitVec 16) : fcHas fc 7 7 1 = true ↔ fcRSV fc = 1#1 := fcHas_iff fc 7 7 1#1
theorem fcHas_SNS (fc : BitVec 16) : fcHas fc 8 8 1 = true ↔ fcSNS fc = 1#1 := fcHas_iff fc 8 8 1#1
theorem fcHas_IEP (fc : BitVec 16) : fcHas fc 9 9 1 = true ↔ fcIEP fc = 1#1 := fcHas_iff fc 9 9 1#1
theorem fcHas_DAM (fc : BitVec 16) (v : BitVec 2) : fcHas fc 11 10 v.toNat = true ↔ fcDAM fc = v := fcHas_iff fc 11 10 v
theorem fcHas_FV (fc : BitVec 16) (v : BitVec 2) : fcHas fc 13 12 v.toNat = true ↔ fcFV fc = v := fcHas_iff fc 13 12 v
theorem fcHas_SAM (fc : BitVec 16) (v : BitVec 2) : fcHas fc 15 14 v.toNat = true ↔ fcSAM fc = v := fcHas_iff fc 15 14 v
theorem fcHas_FT (fc : BitVec 16) (v : BitVec 3) : fcHas fc 2 0 v.toNat = true ↔ fcFT fc = v := fcHas_iff fc 2 0 v

/-- The checks of the table's REJ_ rows as the decoder's fields. -/
theorem fcPasses_iff (fc : BitVec 16) (n : Nat) :
    fcPasses fc n = true ↔
      (1 ≤ n → fcRSV fc ≠ 1#1) ∧ (2 ≤ n → fcSNS fc ≠ 1#1) ∧ (3 ≤ n → fcIEP fc ≠ 1#1) ∧ (4 ≤ n → fcFV fc = 0#2) ∧
      (5 ≤ n → fcDAM fc ≠ 1#2) ∧ (6 ≤ n → fcSAM fc ≠ 1#2) := by
  have h1 := fcHas_RSV fc
  have h2 := fcHas_SNS fc
  have h3 := fcHas_IEP fc
  have h4 := fcHas_FV fc 0#2
  have h5 := fcHas_DAM fc 1#2
  have h6 := fcHas_SAM fc 1#2
  simp only [BitVec.toNat_ofNat, Nat.reducePow, Nat.one_mod, Nat.zero_mod] at h4 h5 h6
  unfold fcPasses
  simp only [Bool.and_eq_true, Bool.or_eq_true, Bool.not_eq_true', ← Bool.not_eq_true, h1, h2, h3, h4, h5, h6,
    beq_iff_eq, decide_eq_true_eq]
  constructor
  · rintro ⟨⟨⟨⟨⟨a, b⟩, c⟩, d⟩, e⟩, f⟩
    exact ⟨fun h => a.resolve_left (by omega), fun h => b.resolve_left (by omega), fun h => c.resolve_left (by omega),
      fun h => d.resolve_left (by omega), fun h => e.resolve_left (by omega), fun h => f.resolve_left (by omega)⟩
  · rintro ⟨a, b, c, d, e, f⟩
    refine ⟨⟨⟨⟨⟨?_, ?_⟩, ?_⟩, ?_⟩, ?_⟩, ?_⟩
    · by_cases h : n = 0
      · exact .inl h
      · exact .inr (a (by omega))
    · by_cases h : n ≤ 1
      · exact .inl h
      · exact .inr (b (by omega))
    · by_cases h : n ≤ 2
      · exact .inl h
      · exact .inr (c (by omega))
    · by_cases h : n ≤ 3
      · exact .inl h
      · exact .inr (d (by omega))
    · by_cases h : n ≤ 4
      · exact .inl h
      · exact .inr (e (by omega))
    · by_cases h : n ≤ 5
      · exact .inl h
      · exact .inr (f (by omega))

/-! ## What `classifyFc` answers, check by check -/

theorem classifyFc_rsv {fc : BitVec 16} (h : fcRSV fc = 1#1) : classifyFc fc = .rejReservedBit := by
  simp [classifyFc, h]

theorem classifyFc_sns {fc : BitVec 16} (h1 : fcRSV fc ≠ 1#1) (h : fcSNS fc = 1#1) :
    classifyFc fc = .rejSeqSuppression := by simp [classifyFc, h1, h]

theorem classifyFc_iep {fc : BitVec 16} (h1 : fcRSV fc ≠ 1#1) (h2 : fcSNS fc ≠ 1#1) (h : fcIEP fc = 1#1) :
    classifyFc fc = .rejIePresent := by simp [classifyFc, h1, h2, h]

/-- The version check, once the bits before it pass. -/
theorem classifyFc_version {fc : BitVec 16} (h1 : fcRSV fc ≠ 1#1) (h2 : fcSNS fc ≠ 1#1) (h3 : fcIEP fc ≠ 1#1) :
    (fcFV fc = 1#2 → classifyFc fc = .rejVersion1) ∧ (fcFV fc = 2#2 → classifyFc fc = .rejVersion2) ∧
    (fcFV fc = 3#2 → classifyFc fc = .rejVersion3) := by
  refine ⟨?_, ?_, ?_⟩ <;> intro h <;> simp [classifyFc, h1, h2, h3, h]

theorem classifyFc_dam {fc : BitVec 16} (h1 : fcRSV fc ≠ 1#1) (h2 : fcSNS fc ≠ 1#1) (h3 : fcIEP fc ≠ 1#1)
    (h4 : fcFV fc = 0#2) (h : fcDAM fc = 1#2) : classifyFc fc = .rejDstModeReserved := by
  simp [classifyFc, h1, h2, h3, h4, h]

theorem classifyFc_sam {fc : BitVec 16} (h1 : fcRSV fc ≠ 1#1) (h2 : fcSNS fc ≠ 1#1) (h3 : fcIEP fc ≠ 1#1)
    (h4 : fcFV fc = 0#2) (h5 : fcDAM fc ≠ 1#2) (h : fcSAM fc = 1#2) : classifyFc fc = .rejSrcModeReserved := by
  simp [classifyFc, h1, h2, h3, h4, h5, h]

/-- The frame type of a word that passes every check. -/
def ftClass (ft : BitVec 3) : FcClass :=
  if ft = 0#3 then .ftBeacon
  else if ft = 1#3 then .ftData
  else if ft = 2#3 then .ftAck
  else if ft = 3#3 then .ftMacCommand
  else if ft = 4#3 then .ftReserved
  else if ft = 5#3 then .ftMultipurpose
  else if ft = 6#3 then .ftFragment
  else .ftExtended

theorem classifyFc_accepted {fc : BitVec 16} (h1 : fcRSV fc ≠ 1#1) (h2 : fcSNS fc ≠ 1#1) (h3 : fcIEP fc ≠ 1#1)
    (h4 : fcFV fc = 0#2) (h5 : fcDAM fc ≠ 1#2) (h6 : fcSAM fc ≠ 1#2) : classifyFc fc = ftClass (fcFT fc) := by
  simp [classifyFc, ftClass, h1, h2, h3, h4, h5, h6]

/-- Modes 0, 2 and 3 are the legal ones (30_encoding.md R65). -/
theorem classifyMode_eq_none_iff (m : BitVec 2) : classifyMode m = none ↔ m = 1#2 := by
  revert m; decide

/-! ## Descriptor fields -/

theorem tdOf_write (w d : Bool) (o : BitVec 9) : (tdOf w d o).getLsbD 10 = w := by
  unfold tdOf
  rw [BitVec.getLsbD_append]
  cases w <;> cases d <;> rfl
theorem tdOf_wide (w d : Bool) (o : BitVec 9) : (tdOf w d o).getLsbD 9 = d := by
  unfold tdOf
  rw [BitVec.getLsbD_append]
  cases w <;> cases d <;> rfl
theorem tdOf_bit (w d : Bool) (o : BitVec 9) {k : Nat} (hk : k < 9) : (tdOf w d o).getLsbD k = o.getLsbD k := by
  unfold tdOf
  rw [BitVec.getLsbD_append, if_pos hk]
theorem tdOf_offset (w d : Bool) (o : BitVec 9) : (tdOf w d o).setWidth 9 = o := by
  apply BitVec.eq_of_getLsbD_eq
  intro k hk
  simp [hk, tdOf_bit w d o hk]
theorem tdOf_low (w d : Bool) (o : BitVec 8) : (tdOf w d (o.setWidth 9)).setWidth 8 = o := by
  apply BitVec.eq_of_getLsbD_eq
  intro k hk
  simp [BitVec.getLsbD_setWidth, hk, tdOf_bit w d _ (show k < 9 by omega)]
  omega

theorem tdOf_eq_cmd (w d : Bool) (o : BitVec 9) : tdOf w d o = 0x70C#11 ↔ w = true ∧ d = true ∧ o = 0x10C#9 := by
  constructor
  · intro h
    have h1 := tdOf_write w d o
    have h2 := tdOf_wide w d o
    have h3 := tdOf_offset w d o
    rw [h] at h1 h2 h3
    exact ⟨h1.symm, h2.symm, h3.symm⟩
  · rintro ⟨rfl, rfl, rfl⟩; rfl

/-- Alignment is bits 1:0 (20_memory.md R46). -/
theorem aligned_bits {n : Nat} (o : BitVec n) (h : alignedOffset o.toNat = true) :
    o.getLsbD 0 = false ∧ o.getLsbD 1 = false := by
  simp only [alignedOffset, beq_iff_eq] at h
  simp only [BitVec.getLsbD, Nat.testBit, Nat.shiftRight_zero, Nat.shiftRight_succ]
  refine ⟨?_, ?_⟩
  · have : o.toNat % 2 = 0 := by omega
    simp [Nat.and_comm 1, Nat.and_one_is_mod, this]
  · have : o.toNat / 2 % 2 = 0 := by omega
    simp [Nat.and_comm 1, Nat.and_one_is_mod, this]

end Sys2Proof
end

