-- ==== Sys2Proof/Laws/State.lean ====
section
/-! SUPPORT. What each named update of State does to each field: one lemma per field and update, true by rfl, so that no
later proof unfolds a record update. An update of the result set has one lemma per field of the result set instead of
one for `res`, so that nested updates do not multiply. -/

namespace Sys2Proof.Machine

/-! The result set after reset. -/

@[simp] theorem Results.reset_outcome : Results.reset.outcome = .none := rfl
@[simp] theorem Results.reset_reason : Results.reset.reason = 0x00#8 := rfl
@[simp] theorem Results.reset_endOff : Results.reset.endOff = 0#8 := rfl
@[simp] theorem Results.reset_fcRaw : Results.reset.fcRaw = 0x0000#16 := rfl
@[simp] theorem Results.reset_fcValid : Results.reset.fcValid = false := rfl
@[simp] theorem Results.reset_seq : Results.reset.seq = 0#8 := rfl
@[simp] theorem Results.reset_seqValid : Results.reset.seqValid = false := rfl
@[simp] theorem Results.reset_panId : Results.reset.panId = 0x0000#16 := rfl
@[simp] theorem Results.reset_panValid : Results.reset.panValid = false := rfl
@[simp] theorem Results.reset_bcast : Results.reset.bcast = false := rfl
@[simp] theorem Results.reset_dstKind : Results.reset.dstKind = .none := rfl
@[simp] theorem Results.reset_dstAddr : Results.reset.dstAddr = 0#64 := rfl
@[simp] theorem Results.reset_srcKind : Results.reset.srcKind = .none := rfl
@[simp] theorem Results.reset_srcAddr : Results.reset.srcAddr = 0#64 := rfl
@[simp] theorem Results.reset_hdrLen : Results.reset.hdrLen = 0#8 := rfl
@[simp] theorem Results.reset_hdrValid : Results.reset.hdrValid = false := rfl
@[simp] theorem Results.reset_payOff : Results.reset.payOff = 0#8 := rfl
@[simp] theorem Results.reset_payLen : Results.reset.payLen = 0#8 := rfl
@[simp] theorem Results.reset_ctLen : Results.reset.ctLen = 0#8 := rfl
@[simp] theorem Results.reset_adLen : Results.reset.adLen = 0#8 := rfl
@[simp] theorem Results.reset_tagOff : Results.reset.tagOff = 0#8 := rfl
@[simp] theorem Results.reset_ctrOff : Results.reset.ctrOff = 0#8 := rfl
@[simp] theorem Results.reset_frameCounter : Results.reset.frameCounter = 0#32 := rfl
@[simp] theorem Results.reset_segValid : Results.reset.segValid = false := rfl
@[simp] theorem Results.reset_nonce : Results.reset.nonce = Vector.replicate 13 0x00#8 := rfl
@[simp] theorem Results.reset_nonceValid : Results.reset.nonceValid = false := rfl

variable (s : State)

/-! writeByte -/

@[simp] theorem State.writeByte_frameBuf (a : Nat) (b : Byte) : (s.writeByte a b).frameBuf = Memory.set s.frameBuf a b := rfl
@[simp] theorem State.writeByte_epoch (a : Nat) (b : Byte) : (s.writeByte a b).epoch = s.epoch := rfl
@[simp] theorem State.writeByte_frameLen (a : Nat) (b : Byte) : (s.writeByte a b).frameLen = s.frameLen := rfl
@[simp] theorem State.writeByte_cfgPan (a : Nat) (b : Byte) : (s.writeByte a b).cfgPan = s.cfgPan := rfl
@[simp] theorem State.writeByte_cfgPanWritten (a : Nat) (b : Byte) : (s.writeByte a b).cfgPanWritten = s.cfgPanWritten := rfl
@[simp] theorem State.writeByte_irqEn (a : Nat) (b : Byte) : (s.writeByte a b).irqEn = s.irqEn := rfl
@[simp] theorem State.writeByte_busy (a : Nat) (b : Byte) : (s.writeByte a b).busy = s.busy := rfl
@[simp] theorem State.writeByte_done (a : Nat) (b : Byte) : (s.writeByte a b).done = s.done := rfl
@[simp] theorem State.writeByte_ccmReq (a : Nat) (b : Byte) : (s.writeByte a b).ccmReq = s.ccmReq := rfl
@[simp] theorem State.writeByte_state (a : Nat) (b : Byte) : (s.writeByte a b).state = s.state := rfl
@[simp] theorem State.writeByte_wrWhileBusy (a : Nat) (b : Byte) : (s.writeByte a b).wrWhileBusy = s.wrWhileBusy := rfl
@[simp] theorem State.writeByte_cmdWhileBusy (a : Nat) (b : Byte) : (s.writeByte a b).cmdWhileBusy = s.cmdWhileBusy := rfl
@[simp] theorem State.writeByte_badCmd (a : Nat) (b : Byte) : (s.writeByte a b).badCmd = s.badCmd := rfl
@[simp] theorem State.writeByte_busErr (a : Nat) (b : Byte) : (s.writeByte a b).busErr = s.busErr := rfl
@[simp] theorem State.writeByte_off (a : Nat) (b : Byte) : (s.writeByte a b).off = s.off := rfl
@[simp] theorem State.writeByte_res (a : Nat) (b : Byte) : (s.writeByte a b).res = s.res := rfl
@[simp] theorem State.writeByte_ccmDone (a : Nat) (b : Byte) : (s.writeByte a b).ccmDone = s.ccmDone := rfl
@[simp] theorem State.writeByte_rdata (a : Nat) (b : Byte) : (s.writeByte a b).rdata = s.rdata := rfl
@[simp] theorem State.writeByte_turns (a : Nat) (b : Byte) : (s.writeByte a b).turns = s.turns := rfl

/-! goto -/

@[simp] theorem State.goto_frameBuf (v : BitVec 4) : (s.goto v).frameBuf = s.frameBuf := rfl
@[simp] theorem State.goto_epoch (v : BitVec 4) : (s.goto v).epoch = s.epoch := rfl
@[simp] theorem State.goto_frameLen (v : BitVec 4) : (s.goto v).frameLen = s.frameLen := rfl
@[simp] theorem State.goto_cfgPan (v : BitVec 4) : (s.goto v).cfgPan = s.cfgPan := rfl
@[simp] theorem State.goto_cfgPanWritten (v : BitVec 4) : (s.goto v).cfgPanWritten = s.cfgPanWritten := rfl
@[simp] theorem State.goto_irqEn (v : BitVec 4) : (s.goto v).irqEn = s.irqEn := rfl
@[simp] theorem State.goto_busy (v : BitVec 4) : (s.goto v).busy = s.busy := rfl
@[simp] theorem State.goto_done (v : BitVec 4) : (s.goto v).done = s.done := rfl
@[simp] theorem State.goto_ccmReq (v : BitVec 4) : (s.goto v).ccmReq = s.ccmReq := rfl
@[simp] theorem State.goto_state (v : BitVec 4) : (s.goto v).state = v := rfl
@[simp] theorem State.goto_wrWhileBusy (v : BitVec 4) : (s.goto v).wrWhileBusy = s.wrWhileBusy := rfl
@[simp] theorem State.goto_cmdWhileBusy (v : BitVec 4) : (s.goto v).cmdWhileBusy = s.cmdWhileBusy := rfl
@[simp] theorem State.goto_badCmd (v : BitVec 4) : (s.goto v).badCmd = s.badCmd := rfl
@[simp] theorem State.goto_busErr (v : BitVec 4) : (s.goto v).busErr = s.busErr := rfl
@[simp] theorem State.goto_off (v : BitVec 4) : (s.goto v).off = s.off := rfl
@[simp] theorem State.goto_res (v : BitVec 4) : (s.goto v).res = s.res := rfl
@[simp] theorem State.goto_ccmDone (v : BitVec 4) : (s.goto v).ccmDone = s.ccmDone := rfl
@[simp] theorem State.goto_rdata (v : BitVec 4) : (s.goto v).rdata = s.rdata := rfl
@[simp] theorem State.goto_turns (v : BitVec 4) : (s.goto v).turns = s.turns := rfl

/-! setRes -/

@[simp] theorem State.setRes_frameBuf (r : Results) : (s.setRes r).frameBuf = s.frameBuf := rfl
@[simp] theorem State.setRes_epoch (r : Results) : (s.setRes r).epoch = s.epoch := rfl
@[simp] theorem State.setRes_frameLen (r : Results) : (s.setRes r).frameLen = s.frameLen := rfl
@[simp] theorem State.setRes_cfgPan (r : Results) : (s.setRes r).cfgPan = s.cfgPan := rfl
@[simp] theorem State.setRes_cfgPanWritten (r : Results) : (s.setRes r).cfgPanWritten = s.cfgPanWritten := rfl
@[simp] theorem State.setRes_irqEn (r : Results) : (s.setRes r).irqEn = s.irqEn := rfl
@[simp] theorem State.setRes_busy (r : Results) : (s.setRes r).busy = s.busy := rfl
@[simp] theorem State.setRes_done (r : Results) : (s.setRes r).done = s.done := rfl
@[simp] theorem State.setRes_ccmReq (r : Results) : (s.setRes r).ccmReq = s.ccmReq := rfl
@[simp] theorem State.setRes_state (r : Results) : (s.setRes r).state = s.state := rfl
@[simp] theorem State.setRes_wrWhileBusy (r : Results) : (s.setRes r).wrWhileBusy = s.wrWhileBusy := rfl
@[simp] theorem State.setRes_cmdWhileBusy (r : Results) : (s.setRes r).cmdWhileBusy = s.cmdWhileBusy := rfl
@[simp] theorem State.setRes_badCmd (r : Results) : (s.setRes r).badCmd = s.badCmd := rfl
@[simp] theorem State.setRes_busErr (r : Results) : (s.setRes r).busErr = s.busErr := rfl
@[simp] theorem State.setRes_off (r : Results) : (s.setRes r).off = s.off := rfl
@[simp] theorem State.setRes_res (r : Results) : (s.setRes r).res = r := rfl
@[simp] theorem State.setRes_ccmDone (r : Results) : (s.setRes r).ccmDone = s.ccmDone := rfl
@[simp] theorem State.setRes_rdata (r : Results) : (s.setRes r).rdata = s.rdata := rfl
@[simp] theorem State.setRes_turns (r : Results) : (s.setRes r).turns = s.turns := rfl

/-! setOff -/

@[simp] theorem State.setOff_frameBuf (v : BitVec 8) : (s.setOff v).frameBuf = s.frameBuf := rfl
@[simp] theorem State.setOff_epoch (v : BitVec 8) : (s.setOff v).epoch = s.epoch := rfl
@[simp] theorem State.setOff_frameLen (v : BitVec 8) : (s.setOff v).frameLen = s.frameLen := rfl
@[simp] theorem State.setOff_cfgPan (v : BitVec 8) : (s.setOff v).cfgPan = s.cfgPan := rfl
@[simp] theorem State.setOff_cfgPanWritten (v : BitVec 8) : (s.setOff v).cfgPanWritten = s.cfgPanWritten := rfl
@[simp] theorem State.setOff_irqEn (v : BitVec 8) : (s.setOff v).irqEn = s.irqEn := rfl
@[simp] theorem State.setOff_busy (v : BitVec 8) : (s.setOff v).busy = s.busy := rfl
@[simp] theorem State.setOff_done (v : BitVec 8) : (s.setOff v).done = s.done := rfl
@[simp] theorem State.setOff_ccmReq (v : BitVec 8) : (s.setOff v).ccmReq = s.ccmReq := rfl
@[simp] theorem State.setOff_state (v : BitVec 8) : (s.setOff v).state = s.state := rfl
@[simp] theorem State.setOff_wrWhileBusy (v : BitVec 8) : (s.setOff v).wrWhileBusy = s.wrWhileBusy := rfl
@[simp] theorem State.setOff_cmdWhileBusy (v : BitVec 8) : (s.setOff v).cmdWhileBusy = s.cmdWhileBusy := rfl
@[simp] theorem State.setOff_badCmd (v : BitVec 8) : (s.setOff v).badCmd = s.badCmd := rfl
@[simp] theorem State.setOff_busErr (v : BitVec 8) : (s.setOff v).busErr = s.busErr := rfl
@[simp] theorem State.setOff_off (v : BitVec 8) : (s.setOff v).off = v := rfl
@[simp] theorem State.setOff_res (v : BitVec 8) : (s.setOff v).res = s.res := rfl
@[simp] theorem State.setOff_ccmDone (v : BitVec 8) : (s.setOff v).ccmDone = s.ccmDone := rfl
@[simp] theorem State.setOff_rdata (v : BitVec 8) : (s.setOff v).rdata = s.rdata := rfl
@[simp] theorem State.setOff_turns (v : BitVec 8) : (s.setOff v).turns = s.turns := rfl

/-! advance -/

@[simp] theorem State.advance_frameBuf (n : Nat) : (s.advance n).frameBuf = s.frameBuf := rfl
@[simp] theorem State.advance_epoch (n : Nat) : (s.advance n).epoch = s.epoch := rfl
@[simp] theorem State.advance_frameLen (n : Nat) : (s.advance n).frameLen = s.frameLen := rfl
@[simp] theorem State.advance_cfgPan (n : Nat) : (s.advance n).cfgPan = s.cfgPan := rfl
@[simp] theorem State.advance_cfgPanWritten (n : Nat) : (s.advance n).cfgPanWritten = s.cfgPanWritten := rfl
@[simp] theorem State.advance_irqEn (n : Nat) : (s.advance n).irqEn = s.irqEn := rfl
@[simp] theorem State.advance_busy (n : Nat) : (s.advance n).busy = s.busy := rfl
@[simp] theorem State.advance_done (n : Nat) : (s.advance n).done = s.done := rfl
@[simp] theorem State.advance_ccmReq (n : Nat) : (s.advance n).ccmReq = s.ccmReq := rfl
@[simp] theorem State.advance_state (n : Nat) : (s.advance n).state = s.state := rfl
@[simp] theorem State.advance_wrWhileBusy (n : Nat) : (s.advance n).wrWhileBusy = s.wrWhileBusy := rfl
@[simp] theorem State.advance_cmdWhileBusy (n : Nat) : (s.advance n).cmdWhileBusy = s.cmdWhileBusy := rfl
@[simp] theorem State.advance_badCmd (n : Nat) : (s.advance n).badCmd = s.badCmd := rfl
@[simp] theorem State.advance_busErr (n : Nat) : (s.advance n).busErr = s.busErr := rfl
@[simp] theorem State.advance_off (n : Nat) : (s.advance n).off = s.off + BitVec.ofNat 8 n := rfl
@[simp] theorem State.advance_res (n : Nat) : (s.advance n).res = s.res := rfl
@[simp] theorem State.advance_ccmDone (n : Nat) : (s.advance n).ccmDone = s.ccmDone := rfl
@[simp] theorem State.advance_rdata (n : Nat) : (s.advance n).rdata = s.rdata := rfl
@[simp] theorem State.advance_turns (n : Nat) : (s.advance n).turns = s.turns := rfl

/-! flagBusErr -/

@[simp] theorem State.flagBusErr_frameBuf : (s.flagBusErr).frameBuf = s.frameBuf := rfl
@[simp] theorem State.flagBusErr_epoch : (s.flagBusErr).epoch = s.epoch := rfl
@[simp] theorem State.flagBusErr_frameLen : (s.flagBusErr).frameLen = s.frameLen := rfl
@[simp] theorem State.flagBusErr_cfgPan : (s.flagBusErr).cfgPan = s.cfgPan := rfl
@[simp] theorem State.flagBusErr_cfgPanWritten : (s.flagBusErr).cfgPanWritten = s.cfgPanWritten := rfl
@[simp] theorem State.flagBusErr_irqEn : (s.flagBusErr).irqEn = s.irqEn := rfl
@[simp] theorem State.flagBusErr_busy : (s.flagBusErr).busy = s.busy := rfl
@[simp] theorem State.flagBusErr_done : (s.flagBusErr).done = s.done := rfl
@[simp] theorem State.flagBusErr_ccmReq : (s.flagBusErr).ccmReq = s.ccmReq := rfl
@[simp] theorem State.flagBusErr_state : (s.flagBusErr).state = s.state := rfl
@[simp] theorem State.flagBusErr_wrWhileBusy : (s.flagBusErr).wrWhileBusy = s.wrWhileBusy := rfl
@[simp] theorem State.flagBusErr_cmdWhileBusy : (s.flagBusErr).cmdWhileBusy = s.cmdWhileBusy := rfl
@[simp] theorem State.flagBusErr_badCmd : (s.flagBusErr).badCmd = s.badCmd := rfl
@[simp] theorem State.flagBusErr_busErr : (s.flagBusErr).busErr = true := rfl
@[simp] theorem State.flagBusErr_off : (s.flagBusErr).off = s.off := rfl
@[simp] theorem State.flagBusErr_res : (s.flagBusErr).res = s.res := rfl
@[simp] theorem State.flagBusErr_ccmDone : (s.flagBusErr).ccmDone = s.ccmDone := rfl
@[simp] theorem State.flagBusErr_rdata : (s.flagBusErr).rdata = s.rdata := rfl
@[simp] theorem State.flagBusErr_turns : (s.flagBusErr).turns = s.turns := rfl

/-! flagWrWhileBusy -/

@[simp] theorem State.flagWrWhileBusy_frameBuf : (s.flagWrWhileBusy).frameBuf = s.frameBuf := rfl
@[simp] theorem State.flagWrWhileBusy_epoch : (s.flagWrWhileBusy).epoch = s.epoch := rfl
@[simp] theorem State.flagWrWhileBusy_frameLen : (s.flagWrWhileBusy).frameLen = s.frameLen := rfl
@[simp] theorem State.flagWrWhileBusy_cfgPan : (s.flagWrWhileBusy).cfgPan = s.cfgPan := rfl
@[simp] theorem State.flagWrWhileBusy_cfgPanWritten : (s.flagWrWhileBusy).cfgPanWritten = s.cfgPanWritten := rfl
@[simp] theorem State.flagWrWhileBusy_irqEn : (s.flagWrWhileBusy).irqEn = s.irqEn := rfl
@[simp] theorem State.flagWrWhileBusy_busy : (s.flagWrWhileBusy).busy = s.busy := rfl
@[simp] theorem State.flagWrWhileBusy_done : (s.flagWrWhileBusy).done = s.done := rfl
@[simp] theorem State.flagWrWhileBusy_ccmReq : (s.flagWrWhileBusy).ccmReq = s.ccmReq := rfl
@[simp] theorem State.flagWrWhileBusy_state : (s.flagWrWhileBusy).state = s.state := rfl
@[simp] theorem State.flagWrWhileBusy_wrWhileBusy : (s.flagWrWhileBusy).wrWhileBusy = true := rfl
@[simp] theorem State.flagWrWhileBusy_cmdWhileBusy : (s.flagWrWhileBusy).cmdWhileBusy = s.cmdWhileBusy := rfl
@[simp] theorem State.flagWrWhileBusy_badCmd : (s.flagWrWhileBusy).badCmd = s.badCmd := rfl
@[simp] theorem State.flagWrWhileBusy_busErr : (s.flagWrWhileBusy).busErr = s.busErr := rfl
@[simp] theorem State.flagWrWhileBusy_off : (s.flagWrWhileBusy).off = s.off := rfl
@[simp] theorem State.flagWrWhileBusy_res : (s.flagWrWhileBusy).res = s.res := rfl
@[simp] theorem State.flagWrWhileBusy_ccmDone : (s.flagWrWhileBusy).ccmDone = s.ccmDone := rfl
@[simp] theorem State.flagWrWhileBusy_rdata : (s.flagWrWhileBusy).rdata = s.rdata := rfl
@[simp] theorem State.flagWrWhileBusy_turns : (s.flagWrWhileBusy).turns = s.turns := rfl

/-! flagCmdWhileBusy -/

@[simp] theorem State.flagCmdWhileBusy_frameBuf : (s.flagCmdWhileBusy).frameBuf = s.frameBuf := rfl
@[simp] theorem State.flagCmdWhileBusy_epoch : (s.flagCmdWhileBusy).epoch = s.epoch := rfl
@[simp] theorem State.flagCmdWhileBusy_frameLen : (s.flagCmdWhileBusy).frameLen = s.frameLen := rfl
@[simp] theorem State.flagCmdWhileBusy_cfgPan : (s.flagCmdWhileBusy).cfgPan = s.cfgPan := rfl
@[simp] theorem State.flagCmdWhileBusy_cfgPanWritten : (s.flagCmdWhileBusy).cfgPanWritten = s.cfgPanWritten := rfl
@[simp] theorem State.flagCmdWhileBusy_irqEn : (s.flagCmdWhileBusy).irqEn = s.irqEn := rfl
@[simp] theorem State.flagCmdWhileBusy_busy : (s.flagCmdWhileBusy).busy = s.busy := rfl
@[simp] theorem State.flagCmdWhileBusy_done : (s.flagCmdWhileBusy).done = s.done := rfl
@[simp] theorem State.flagCmdWhileBusy_ccmReq : (s.flagCmdWhileBusy).ccmReq = s.ccmReq := rfl
@[simp] theorem State.flagCmdWhileBusy_state : (s.flagCmdWhileBusy).state = s.state := rfl
@[simp] theorem State.flagCmdWhileBusy_wrWhileBusy : (s.flagCmdWhileBusy).wrWhileBusy = s.wrWhileBusy := rfl
@[simp] theorem State.flagCmdWhileBusy_cmdWhileBusy : (s.flagCmdWhileBusy).cmdWhileBusy = true := rfl
@[simp] theorem State.flagCmdWhileBusy_badCmd : (s.flagCmdWhileBusy).badCmd = s.badCmd := rfl
@[simp] theorem State.flagCmdWhileBusy_busErr : (s.flagCmdWhileBusy).busErr = s.busErr := rfl
@[simp] theorem State.flagCmdWhileBusy_off : (s.flagCmdWhileBusy).off = s.off := rfl
@[simp] theorem State.flagCmdWhileBusy_res : (s.flagCmdWhileBusy).res = s.res := rfl
@[simp] theorem State.flagCmdWhileBusy_ccmDone : (s.flagCmdWhileBusy).ccmDone = s.ccmDone := rfl
@[simp] theorem State.flagCmdWhileBusy_rdata : (s.flagCmdWhileBusy).rdata = s.rdata := rfl
@[simp] theorem State.flagCmdWhileBusy_turns : (s.flagCmdWhileBusy).turns = s.turns := rfl

/-! flagBadCmd -/

@[simp] theorem State.flagBadCmd_frameBuf : (s.flagBadCmd).frameBuf = s.frameBuf := rfl
@[simp] theorem State.flagBadCmd_epoch : (s.flagBadCmd).epoch = s.epoch := rfl
@[simp] theorem State.flagBadCmd_frameLen : (s.flagBadCmd).frameLen = s.frameLen := rfl
@[simp] theorem State.flagBadCmd_cfgPan : (s.flagBadCmd).cfgPan = s.cfgPan := rfl
@[simp] theorem State.flagBadCmd_cfgPanWritten : (s.flagBadCmd).cfgPanWritten = s.cfgPanWritten := rfl
@[simp] theorem State.flagBadCmd_irqEn : (s.flagBadCmd).irqEn = s.irqEn := rfl
@[simp] theorem State.flagBadCmd_busy : (s.flagBadCmd).busy = s.busy := rfl
@[simp] theorem State.flagBadCmd_done : (s.flagBadCmd).done = s.done := rfl
@[simp] theorem State.flagBadCmd_ccmReq : (s.flagBadCmd).ccmReq = s.ccmReq := rfl
@[simp] theorem State.flagBadCmd_state : (s.flagBadCmd).state = s.state := rfl
@[simp] theorem State.flagBadCmd_wrWhileBusy : (s.flagBadCmd).wrWhileBusy = s.wrWhileBusy := rfl
@[simp] theorem State.flagBadCmd_cmdWhileBusy : (s.flagBadCmd).cmdWhileBusy = s.cmdWhileBusy := rfl
@[simp] theorem State.flagBadCmd_badCmd : (s.flagBadCmd).badCmd = true := rfl
@[simp] theorem State.flagBadCmd_busErr : (s.flagBadCmd).busErr = s.busErr := rfl
@[simp] theorem State.flagBadCmd_off : (s.flagBadCmd).off = s.off := rfl
@[simp] theorem State.flagBadCmd_res : (s.flagBadCmd).res = s.res := rfl
@[simp] theorem State.flagBadCmd_ccmDone : (s.flagBadCmd).ccmDone = s.ccmDone := rfl
@[simp] theorem State.flagBadCmd_rdata : (s.flagBadCmd).rdata = s.rdata := rfl
@[simp] theorem State.flagBadCmd_turns : (s.flagBadCmd).turns = s.turns := rfl

/-! setFrameLen -/

@[simp] theorem State.setFrameLen_frameBuf (v : BitVec 8) : (s.setFrameLen v).frameBuf = s.frameBuf := rfl
@[simp] theorem State.setFrameLen_epoch (v : BitVec 8) : (s.setFrameLen v).epoch = s.epoch := rfl
@[simp] theorem State.setFrameLen_frameLen (v : BitVec 8) : (s.setFrameLen v).frameLen = v := rfl
@[simp] theorem State.setFrameLen_cfgPan (v : BitVec 8) : (s.setFrameLen v).cfgPan = s.cfgPan := rfl
@[simp] theorem State.setFrameLen_cfgPanWritten (v : BitVec 8) : (s.setFrameLen v).cfgPanWritten = s.cfgPanWritten := rfl
@[simp] theorem State.setFrameLen_irqEn (v : BitVec 8) : (s.setFrameLen v).irqEn = s.irqEn := rfl
@[simp] theorem State.setFrameLen_busy (v : BitVec 8) : (s.setFrameLen v).busy = s.busy := rfl
@[simp] theorem State.setFrameLen_done (v : BitVec 8) : (s.setFrameLen v).done = s.done := rfl
@[simp] theorem State.setFrameLen_ccmReq (v : BitVec 8) : (s.setFrameLen v).ccmReq = s.ccmReq := rfl
@[simp] theorem State.setFrameLen_state (v : BitVec 8) : (s.setFrameLen v).state = s.state := rfl
@[simp] theorem State.setFrameLen_wrWhileBusy (v : BitVec 8) : (s.setFrameLen v).wrWhileBusy = s.wrWhileBusy := rfl
@[simp] theorem State.setFrameLen_cmdWhileBusy (v : BitVec 8) : (s.setFrameLen v).cmdWhileBusy = s.cmdWhileBusy := rfl
@[simp] theorem State.setFrameLen_badCmd (v : BitVec 8) : (s.setFrameLen v).badCmd = s.badCmd := rfl
@[simp] theorem State.setFrameLen_busErr (v : BitVec 8) : (s.setFrameLen v).busErr = s.busErr := rfl
@[simp] theorem State.setFrameLen_off (v : BitVec 8) : (s.setFrameLen v).off = s.off := rfl
@[simp] theorem State.setFrameLen_res (v : BitVec 8) : (s.setFrameLen v).res = s.res := rfl
@[simp] theorem State.setFrameLen_ccmDone (v : BitVec 8) : (s.setFrameLen v).ccmDone = s.ccmDone := rfl
@[simp] theorem State.setFrameLen_rdata (v : BitVec 8) : (s.setFrameLen v).rdata = s.rdata := rfl
@[simp] theorem State.setFrameLen_turns (v : BitVec 8) : (s.setFrameLen v).turns = s.turns := rfl

/-! setCfgPan -/

@[simp] theorem State.setCfgPan_frameBuf (v : BitVec 16) : (s.setCfgPan v).frameBuf = s.frameBuf := rfl
@[simp] theorem State.setCfgPan_epoch (v : BitVec 16) : (s.setCfgPan v).epoch = s.epoch := rfl
@[simp] theorem State.setCfgPan_frameLen (v : BitVec 16) : (s.setCfgPan v).frameLen = s.frameLen := rfl
@[simp] theorem State.setCfgPan_cfgPan (v : BitVec 16) : (s.setCfgPan v).cfgPan = v := rfl
@[simp] theorem State.setCfgPan_cfgPanWritten (v : BitVec 16) : (s.setCfgPan v).cfgPanWritten = true := rfl
@[simp] theorem State.setCfgPan_irqEn (v : BitVec 16) : (s.setCfgPan v).irqEn = s.irqEn := rfl
@[simp] theorem State.setCfgPan_busy (v : BitVec 16) : (s.setCfgPan v).busy = s.busy := rfl
@[simp] theorem State.setCfgPan_done (v : BitVec 16) : (s.setCfgPan v).done = s.done := rfl
@[simp] theorem State.setCfgPan_ccmReq (v : BitVec 16) : (s.setCfgPan v).ccmReq = s.ccmReq := rfl
@[simp] theorem State.setCfgPan_state (v : BitVec 16) : (s.setCfgPan v).state = s.state := rfl
@[simp] theorem State.setCfgPan_wrWhileBusy (v : BitVec 16) : (s.setCfgPan v).wrWhileBusy = s.wrWhileBusy := rfl
@[simp] theorem State.setCfgPan_cmdWhileBusy (v : BitVec 16) : (s.setCfgPan v).cmdWhileBusy = s.cmdWhileBusy := rfl
@[simp] theorem State.setCfgPan_badCmd (v : BitVec 16) : (s.setCfgPan v).badCmd = s.badCmd := rfl
@[simp] theorem State.setCfgPan_busErr (v : BitVec 16) : (s.setCfgPan v).busErr = s.busErr := rfl
@[simp] theorem State.setCfgPan_off (v : BitVec 16) : (s.setCfgPan v).off = s.off := rfl
@[simp] theorem State.setCfgPan_res (v : BitVec 16) : (s.setCfgPan v).res = s.res := rfl
@[simp] theorem State.setCfgPan_ccmDone (v : BitVec 16) : (s.setCfgPan v).ccmDone = s.ccmDone := rfl
@[simp] theorem State.setCfgPan_rdata (v : BitVec 16) : (s.setCfgPan v).rdata = s.rdata := rfl
@[simp] theorem State.setCfgPan_turns (v : BitVec 16) : (s.setCfgPan v).turns = s.turns := rfl

/-! setIrqEn -/

@[simp] theorem State.setIrqEn_frameBuf (v : Bool) : (s.setIrqEn v).frameBuf = s.frameBuf := rfl
@[simp] theorem State.setIrqEn_epoch (v : Bool) : (s.setIrqEn v).epoch = s.epoch := rfl
@[simp] theorem State.setIrqEn_frameLen (v : Bool) : (s.setIrqEn v).frameLen = s.frameLen := rfl
@[simp] theorem State.setIrqEn_cfgPan (v : Bool) : (s.setIrqEn v).cfgPan = s.cfgPan := rfl
@[simp] theorem State.setIrqEn_cfgPanWritten (v : Bool) : (s.setIrqEn v).cfgPanWritten = s.cfgPanWritten := rfl
@[simp] theorem State.setIrqEn_irqEn (v : Bool) : (s.setIrqEn v).irqEn = v := rfl
@[simp] theorem State.setIrqEn_busy (v : Bool) : (s.setIrqEn v).busy = s.busy := rfl
@[simp] theorem State.setIrqEn_done (v : Bool) : (s.setIrqEn v).done = s.done := rfl
@[simp] theorem State.setIrqEn_ccmReq (v : Bool) : (s.setIrqEn v).ccmReq = s.ccmReq := rfl
@[simp] theorem State.setIrqEn_state (v : Bool) : (s.setIrqEn v).state = s.state := rfl
@[simp] theorem State.setIrqEn_wrWhileBusy (v : Bool) : (s.setIrqEn v).wrWhileBusy = s.wrWhileBusy := rfl
@[simp] theorem State.setIrqEn_cmdWhileBusy (v : Bool) : (s.setIrqEn v).cmdWhileBusy = s.cmdWhileBusy := rfl
@[simp] theorem State.setIrqEn_badCmd (v : Bool) : (s.setIrqEn v).badCmd = s.badCmd := rfl
@[simp] theorem State.setIrqEn_busErr (v : Bool) : (s.setIrqEn v).busErr = s.busErr := rfl
@[simp] theorem State.setIrqEn_off (v : Bool) : (s.setIrqEn v).off = s.off := rfl
@[simp] theorem State.setIrqEn_res (v : Bool) : (s.setIrqEn v).res = s.res := rfl
@[simp] theorem State.setIrqEn_ccmDone (v : Bool) : (s.setIrqEn v).ccmDone = s.ccmDone := rfl
@[simp] theorem State.setIrqEn_rdata (v : Bool) : (s.setIrqEn v).rdata = s.rdata := rfl
@[simp] theorem State.setIrqEn_turns (v : Bool) : (s.setIrqEn v).turns = s.turns := rfl

/-! returns -/

@[simp] theorem State.returns_frameBuf (v : Word) : (s.returns v).frameBuf = s.frameBuf := rfl
@[simp] theorem State.returns_epoch (v : Word) : (s.returns v).epoch = s.epoch := rfl
@[simp] theorem State.returns_frameLen (v : Word) : (s.returns v).frameLen = s.frameLen := rfl
@[simp] theorem State.returns_cfgPan (v : Word) : (s.returns v).cfgPan = s.cfgPan := rfl
@[simp] theorem State.returns_cfgPanWritten (v : Word) : (s.returns v).cfgPanWritten = s.cfgPanWritten := rfl
@[simp] theorem State.returns_irqEn (v : Word) : (s.returns v).irqEn = s.irqEn := rfl
@[simp] theorem State.returns_busy (v : Word) : (s.returns v).busy = s.busy := rfl
@[simp] theorem State.returns_done (v : Word) : (s.returns v).done = s.done := rfl
@[simp] theorem State.returns_ccmReq (v : Word) : (s.returns v).ccmReq = s.ccmReq := rfl
@[simp] theorem State.returns_state (v : Word) : (s.returns v).state = s.state := rfl
@[simp] theorem State.returns_wrWhileBusy (v : Word) : (s.returns v).wrWhileBusy = s.wrWhileBusy := rfl
@[simp] theorem State.returns_cmdWhileBusy (v : Word) : (s.returns v).cmdWhileBusy = s.cmdWhileBusy := rfl
@[simp] theorem State.returns_badCmd (v : Word) : (s.returns v).badCmd = s.badCmd := rfl
@[simp] theorem State.returns_busErr (v : Word) : (s.returns v).busErr = s.busErr := rfl
@[simp] theorem State.returns_off (v : Word) : (s.returns v).off = s.off := rfl
@[simp] theorem State.returns_res (v : Word) : (s.returns v).res = s.res := rfl
@[simp] theorem State.returns_ccmDone (v : Word) : (s.returns v).ccmDone = s.ccmDone := rfl
@[simp] theorem State.returns_rdata (v : Word) : (s.returns v).rdata = v := rfl
@[simp] theorem State.returns_turns (v : Word) : (s.returns v).turns = s.turns := rfl

/-! setCcmReq -/

@[simp] theorem State.setCcmReq_frameBuf (v : Bool) : (s.setCcmReq v).frameBuf = s.frameBuf := rfl
@[simp] theorem State.setCcmReq_epoch (v : Bool) : (s.setCcmReq v).epoch = s.epoch := rfl
@[simp] theorem State.setCcmReq_frameLen (v : Bool) : (s.setCcmReq v).frameLen = s.frameLen := rfl
@[simp] theorem State.setCcmReq_cfgPan (v : Bool) : (s.setCcmReq v).cfgPan = s.cfgPan := rfl
@[simp] theorem State.setCcmReq_cfgPanWritten (v : Bool) : (s.setCcmReq v).cfgPanWritten = s.cfgPanWritten := rfl
@[simp] theorem State.setCcmReq_irqEn (v : Bool) : (s.setCcmReq v).irqEn = s.irqEn := rfl
@[simp] theorem State.setCcmReq_busy (v : Bool) : (s.setCcmReq v).busy = s.busy := rfl
@[simp] theorem State.setCcmReq_done (v : Bool) : (s.setCcmReq v).done = s.done := rfl
@[simp] theorem State.setCcmReq_ccmReq (v : Bool) : (s.setCcmReq v).ccmReq = v := rfl
@[simp] theorem State.setCcmReq_state (v : Bool) : (s.setCcmReq v).state = s.state := rfl
@[simp] theorem State.setCcmReq_wrWhileBusy (v : Bool) : (s.setCcmReq v).wrWhileBusy = s.wrWhileBusy := rfl
@[simp] theorem State.setCcmReq_cmdWhileBusy (v : Bool) : (s.setCcmReq v).cmdWhileBusy = s.cmdWhileBusy := rfl
@[simp] theorem State.setCcmReq_badCmd (v : Bool) : (s.setCcmReq v).badCmd = s.badCmd := rfl
@[simp] theorem State.setCcmReq_busErr (v : Bool) : (s.setCcmReq v).busErr = s.busErr := rfl
@[simp] theorem State.setCcmReq_off (v : Bool) : (s.setCcmReq v).off = s.off := rfl
@[simp] theorem State.setCcmReq_res (v : Bool) : (s.setCcmReq v).res = s.res := rfl
@[simp] theorem State.setCcmReq_ccmDone (v : Bool) : (s.setCcmReq v).ccmDone = s.ccmDone := rfl
@[simp] theorem State.setCcmReq_rdata (v : Bool) : (s.setCcmReq v).rdata = s.rdata := rfl
@[simp] theorem State.setCcmReq_turns (v : Bool) : (s.setCcmReq v).turns = s.turns := rfl

/-! setCcmDone -/

@[simp] theorem State.setCcmDone_frameBuf (v : Option Bool) : (s.setCcmDone v).frameBuf = s.frameBuf := rfl
@[simp] theorem State.setCcmDone_epoch (v : Option Bool) : (s.setCcmDone v).epoch = s.epoch := rfl
@[simp] theorem State.setCcmDone_frameLen (v : Option Bool) : (s.setCcmDone v).frameLen = s.frameLen := rfl
@[simp] theorem State.setCcmDone_cfgPan (v : Option Bool) : (s.setCcmDone v).cfgPan = s.cfgPan := rfl
@[simp] theorem State.setCcmDone_cfgPanWritten (v : Option Bool) : (s.setCcmDone v).cfgPanWritten = s.cfgPanWritten := rfl
@[simp] theorem State.setCcmDone_irqEn (v : Option Bool) : (s.setCcmDone v).irqEn = s.irqEn := rfl
@[simp] theorem State.setCcmDone_busy (v : Option Bool) : (s.setCcmDone v).busy = s.busy := rfl
@[simp] theorem State.setCcmDone_done (v : Option Bool) : (s.setCcmDone v).done = s.done := rfl
@[simp] theorem State.setCcmDone_ccmReq (v : Option Bool) : (s.setCcmDone v).ccmReq = s.ccmReq := rfl
@[simp] theorem State.setCcmDone_state (v : Option Bool) : (s.setCcmDone v).state = s.state := rfl
@[simp] theorem State.setCcmDone_wrWhileBusy (v : Option Bool) : (s.setCcmDone v).wrWhileBusy = s.wrWhileBusy := rfl
@[simp] theorem State.setCcmDone_cmdWhileBusy (v : Option Bool) : (s.setCcmDone v).cmdWhileBusy = s.cmdWhileBusy := rfl
@[simp] theorem State.setCcmDone_badCmd (v : Option Bool) : (s.setCcmDone v).badCmd = s.badCmd := rfl
@[simp] theorem State.setCcmDone_busErr (v : Option Bool) : (s.setCcmDone v).busErr = s.busErr := rfl
@[simp] theorem State.setCcmDone_off (v : Option Bool) : (s.setCcmDone v).off = s.off := rfl
@[simp] theorem State.setCcmDone_res (v : Option Bool) : (s.setCcmDone v).res = s.res := rfl
@[simp] theorem State.setCcmDone_ccmDone (v : Option Bool) : (s.setCcmDone v).ccmDone = v := rfl
@[simp] theorem State.setCcmDone_rdata (v : Option Bool) : (s.setCcmDone v).rdata = s.rdata := rfl
@[simp] theorem State.setCcmDone_turns (v : Option Bool) : (s.setCcmDone v).turns = s.turns := rfl

/-! setTurns -/

@[simp] theorem State.setTurns_frameBuf (v : List Turn) : (s.setTurns v).frameBuf = s.frameBuf := rfl
@[simp] theorem State.setTurns_epoch (v : List Turn) : (s.setTurns v).epoch = s.epoch := rfl
@[simp] theorem State.setTurns_frameLen (v : List Turn) : (s.setTurns v).frameLen = s.frameLen := rfl
@[simp] theorem State.setTurns_cfgPan (v : List Turn) : (s.setTurns v).cfgPan = s.cfgPan := rfl
@[simp] theorem State.setTurns_cfgPanWritten (v : List Turn) : (s.setTurns v).cfgPanWritten = s.cfgPanWritten := rfl
@[simp] theorem State.setTurns_irqEn (v : List Turn) : (s.setTurns v).irqEn = s.irqEn := rfl
@[simp] theorem State.setTurns_busy (v : List Turn) : (s.setTurns v).busy = s.busy := rfl
@[simp] theorem State.setTurns_done (v : List Turn) : (s.setTurns v).done = s.done := rfl
@[simp] theorem State.setTurns_ccmReq (v : List Turn) : (s.setTurns v).ccmReq = s.ccmReq := rfl
@[simp] theorem State.setTurns_state (v : List Turn) : (s.setTurns v).state = s.state := rfl
@[simp] theorem State.setTurns_wrWhileBusy (v : List Turn) : (s.setTurns v).wrWhileBusy = s.wrWhileBusy := rfl
@[simp] theorem State.setTurns_cmdWhileBusy (v : List Turn) : (s.setTurns v).cmdWhileBusy = s.cmdWhileBusy := rfl
@[simp] theorem State.setTurns_badCmd (v : List Turn) : (s.setTurns v).badCmd = s.badCmd := rfl
@[simp] theorem State.setTurns_busErr (v : List Turn) : (s.setTurns v).busErr = s.busErr := rfl
@[simp] theorem State.setTurns_off (v : List Turn) : (s.setTurns v).off = s.off := rfl
@[simp] theorem State.setTurns_res (v : List Turn) : (s.setTurns v).res = s.res := rfl
@[simp] theorem State.setTurns_ccmDone (v : List Turn) : (s.setTurns v).ccmDone = s.ccmDone := rfl
@[simp] theorem State.setTurns_rdata (v : List Turn) : (s.setTurns v).rdata = s.rdata := rfl
@[simp] theorem State.setTurns_turns (v : List Turn) : (s.setTurns v).turns = v := rfl

/-! startParse -/

@[simp] theorem State.startParse_frameBuf : (s.startParse).frameBuf = s.frameBuf := rfl
@[simp] theorem State.startParse_epoch : (s.startParse).epoch = s.epoch := rfl
@[simp] theorem State.startParse_frameLen : (s.startParse).frameLen = s.frameLen := rfl
@[simp] theorem State.startParse_cfgPan : (s.startParse).cfgPan = s.cfgPan := rfl
@[simp] theorem State.startParse_cfgPanWritten : (s.startParse).cfgPanWritten = s.cfgPanWritten := rfl
@[simp] theorem State.startParse_irqEn : (s.startParse).irqEn = s.irqEn := rfl
@[simp] theorem State.startParse_busy : (s.startParse).busy = true := rfl
@[simp] theorem State.startParse_done : (s.startParse).done = false := rfl
@[simp] theorem State.startParse_ccmReq : (s.startParse).ccmReq = false := rfl
@[simp] theorem State.startParse_state : (s.startParse).state = FsmCode.fc := rfl
@[simp] theorem State.startParse_wrWhileBusy : (s.startParse).wrWhileBusy = s.wrWhileBusy := rfl
@[simp] theorem State.startParse_cmdWhileBusy : (s.startParse).cmdWhileBusy = s.cmdWhileBusy := rfl
@[simp] theorem State.startParse_badCmd : (s.startParse).badCmd = s.badCmd := rfl
@[simp] theorem State.startParse_busErr : (s.startParse).busErr = s.busErr := rfl
@[simp] theorem State.startParse_off : (s.startParse).off = 0#8 := rfl
@[simp] theorem State.startParse_res : (s.startParse).res = Results.reset := rfl
@[simp] theorem State.startParse_ccmDone : (s.startParse).ccmDone = s.ccmDone := rfl
@[simp] theorem State.startParse_rdata : (s.startParse).rdata = s.rdata := rfl
@[simp] theorem State.startParse_turns : (s.startParse).turns = s.turns := rfl

/-! clearAll -/

@[simp] theorem State.clearAll_frameBuf : (s.clearAll).frameBuf = s.frameBuf := rfl
@[simp] theorem State.clearAll_epoch : (s.clearAll).epoch = s.epoch := rfl
@[simp] theorem State.clearAll_frameLen : (s.clearAll).frameLen = s.frameLen := rfl
@[simp] theorem State.clearAll_cfgPan : (s.clearAll).cfgPan = s.cfgPan := rfl
@[simp] theorem State.clearAll_cfgPanWritten : (s.clearAll).cfgPanWritten = s.cfgPanWritten := rfl
@[simp] theorem State.clearAll_irqEn : (s.clearAll).irqEn = s.irqEn := rfl
@[simp] theorem State.clearAll_busy : (s.clearAll).busy = false := rfl
@[simp] theorem State.clearAll_done : (s.clearAll).done = false := rfl
@[simp] theorem State.clearAll_ccmReq : (s.clearAll).ccmReq = false := rfl
@[simp] theorem State.clearAll_state : (s.clearAll).state = FsmCode.idle := rfl
@[simp] theorem State.clearAll_wrWhileBusy : (s.clearAll).wrWhileBusy = false := rfl
@[simp] theorem State.clearAll_cmdWhileBusy : (s.clearAll).cmdWhileBusy = false := rfl
@[simp] theorem State.clearAll_badCmd : (s.clearAll).badCmd = false := rfl
@[simp] theorem State.clearAll_busErr : (s.clearAll).busErr = false := rfl
@[simp] theorem State.clearAll_off : (s.clearAll).off = 0#8 := rfl
@[simp] theorem State.clearAll_res : (s.clearAll).res = Results.reset := rfl
@[simp] theorem State.clearAll_ccmDone : (s.clearAll).ccmDone = s.ccmDone := rfl
@[simp] theorem State.clearAll_rdata : (s.clearAll).rdata = s.rdata := rfl
@[simp] theorem State.clearAll_turns : (s.clearAll).turns = s.turns := rfl

/-! resetTurn -/

@[simp] theorem State.resetTurn_frameBuf : (s.resetTurn).frameBuf = State.reset.frameBuf := rfl
@[simp] theorem State.resetTurn_epoch : (s.resetTurn).epoch = s.epoch + 1 := rfl
@[simp] theorem State.resetTurn_frameLen : (s.resetTurn).frameLen = State.reset.frameLen := rfl
@[simp] theorem State.resetTurn_cfgPan : (s.resetTurn).cfgPan = State.reset.cfgPan := rfl
@[simp] theorem State.resetTurn_cfgPanWritten : (s.resetTurn).cfgPanWritten = State.reset.cfgPanWritten := rfl
@[simp] theorem State.resetTurn_irqEn : (s.resetTurn).irqEn = State.reset.irqEn := rfl
@[simp] theorem State.resetTurn_busy : (s.resetTurn).busy = State.reset.busy := rfl
@[simp] theorem State.resetTurn_done : (s.resetTurn).done = State.reset.done := rfl
@[simp] theorem State.resetTurn_ccmReq : (s.resetTurn).ccmReq = State.reset.ccmReq := rfl
@[simp] theorem State.resetTurn_state : (s.resetTurn).state = State.reset.state := rfl
@[simp] theorem State.resetTurn_wrWhileBusy : (s.resetTurn).wrWhileBusy = State.reset.wrWhileBusy := rfl
@[simp] theorem State.resetTurn_cmdWhileBusy : (s.resetTurn).cmdWhileBusy = State.reset.cmdWhileBusy := rfl
@[simp] theorem State.resetTurn_badCmd : (s.resetTurn).badCmd = State.reset.badCmd := rfl
@[simp] theorem State.resetTurn_busErr : (s.resetTurn).busErr = State.reset.busErr := rfl
@[simp] theorem State.resetTurn_off : (s.resetTurn).off = State.reset.off := rfl
@[simp] theorem State.resetTurn_res : (s.resetTurn).res = State.reset.res := rfl
@[simp] theorem State.resetTurn_ccmDone : (s.resetTurn).ccmDone = State.reset.ccmDone := rfl
@[simp] theorem State.resetTurn_rdata : (s.resetTurn).rdata = State.reset.rdata := rfl
@[simp] theorem State.resetTurn_turns : (s.resetTurn).turns = s.turns := rfl

/-! enterState -/

@[simp] theorem State.enterState_frameBuf (v : BitVec 4) : (s.enterState v).frameBuf = s.frameBuf := rfl
@[simp] theorem State.enterState_epoch (v : BitVec 4) : (s.enterState v).epoch = s.epoch := rfl
@[simp] theorem State.enterState_frameLen (v : BitVec 4) : (s.enterState v).frameLen = s.frameLen := rfl
@[simp] theorem State.enterState_cfgPan (v : BitVec 4) : (s.enterState v).cfgPan = s.cfgPan := rfl
@[simp] theorem State.enterState_cfgPanWritten (v : BitVec 4) : (s.enterState v).cfgPanWritten = s.cfgPanWritten := rfl
@[simp] theorem State.enterState_irqEn (v : BitVec 4) : (s.enterState v).irqEn = s.irqEn := rfl
@[simp] theorem State.enterState_busy (v : BitVec 4) : (s.enterState v).busy = (v != FsmCode.idle && v != FsmCode.done) := rfl
@[simp] theorem State.enterState_done (v : BitVec 4) : (s.enterState v).done = (v == FsmCode.done) := rfl
@[simp] theorem State.enterState_ccmReq (v : BitVec 4) : (s.enterState v).ccmReq = (v == FsmCode.ccmWait) := rfl
@[simp] theorem State.enterState_state (v : BitVec 4) : (s.enterState v).state = v := rfl
@[simp] theorem State.enterState_wrWhileBusy (v : BitVec 4) : (s.enterState v).wrWhileBusy = s.wrWhileBusy := rfl
@[simp] theorem State.enterState_cmdWhileBusy (v : BitVec 4) : (s.enterState v).cmdWhileBusy = s.cmdWhileBusy := rfl
@[simp] theorem State.enterState_badCmd (v : BitVec 4) : (s.enterState v).badCmd = s.badCmd := rfl
@[simp] theorem State.enterState_busErr (v : BitVec 4) : (s.enterState v).busErr = s.busErr := rfl
@[simp] theorem State.enterState_off (v : BitVec 4) : (s.enterState v).off = s.off := rfl
@[simp] theorem State.enterState_res (v : BitVec 4) : (s.enterState v).res = s.res := rfl
@[simp] theorem State.enterState_ccmDone (v : BitVec 4) : (s.enterState v).ccmDone = s.ccmDone := rfl
@[simp] theorem State.enterState_rdata (v : BitVec 4) : (s.enterState v).rdata = s.rdata := rfl
@[simp] theorem State.enterState_turns (v : BitVec 4) : (s.enterState v).turns = s.turns := rfl

/-! finish -/

@[simp] theorem State.finish_frameBuf (o : ParseOutcome) (r : BitVec 8) : (s.finish o r).frameBuf = s.frameBuf := rfl
@[simp] theorem State.finish_epoch (o : ParseOutcome) (r : BitVec 8) : (s.finish o r).epoch = s.epoch := rfl
@[simp] theorem State.finish_frameLen (o : ParseOutcome) (r : BitVec 8) : (s.finish o r).frameLen = s.frameLen := rfl
@[simp] theorem State.finish_cfgPan (o : ParseOutcome) (r : BitVec 8) : (s.finish o r).cfgPan = s.cfgPan := rfl
@[simp] theorem State.finish_cfgPanWritten (o : ParseOutcome) (r : BitVec 8) : (s.finish o r).cfgPanWritten = s.cfgPanWritten := rfl
@[simp] theorem State.finish_irqEn (o : ParseOutcome) (r : BitVec 8) : (s.finish o r).irqEn = s.irqEn := rfl
@[simp] theorem State.finish_busy (o : ParseOutcome) (r : BitVec 8) : (s.finish o r).busy = false := rfl
@[simp] theorem State.finish_done (o : ParseOutcome) (r : BitVec 8) : (s.finish o r).done = true := rfl
@[simp] theorem State.finish_ccmReq (o : ParseOutcome) (r : BitVec 8) : (s.finish o r).ccmReq = s.ccmReq := rfl
@[simp] theorem State.finish_state (o : ParseOutcome) (r : BitVec 8) : (s.finish o r).state = FsmCode.done := rfl
@[simp] theorem State.finish_wrWhileBusy (o : ParseOutcome) (r : BitVec 8) : (s.finish o r).wrWhileBusy = s.wrWhileBusy := rfl
@[simp] theorem State.finish_cmdWhileBusy (o : ParseOutcome) (r : BitVec 8) : (s.finish o r).cmdWhileBusy = s.cmdWhileBusy := rfl
@[simp] theorem State.finish_badCmd (o : ParseOutcome) (r : BitVec 8) : (s.finish o r).badCmd = s.badCmd := rfl
@[simp] theorem State.finish_busErr (o : ParseOutcome) (r : BitVec 8) : (s.finish o r).busErr = s.busErr := rfl
@[simp] theorem State.finish_off (o : ParseOutcome) (r : BitVec 8) : (s.finish o r).off = s.off := rfl
@[simp] theorem State.finish_ccmDone (o : ParseOutcome) (r : BitVec 8) : (s.finish o r).ccmDone = s.ccmDone := rfl
@[simp] theorem State.finish_rdata (o : ParseOutcome) (r : BitVec 8) : (s.finish o r).rdata = s.rdata := rfl
@[simp] theorem State.finish_turns (o : ParseOutcome) (r : BitVec 8) : (s.finish o r).turns = s.turns := rfl
@[simp] theorem State.finish_res_outcome (o : ParseOutcome) (r : BitVec 8) : (s.finish o r).res.outcome = o := rfl
@[simp] theorem State.finish_res_reason (o : ParseOutcome) (r : BitVec 8) : (s.finish o r).res.reason = r := rfl
@[simp] theorem State.finish_res_endOff (o : ParseOutcome) (r : BitVec 8) : (s.finish o r).res.endOff = s.off := rfl
@[simp] theorem State.finish_res_fcRaw (o : ParseOutcome) (r : BitVec 8) : (s.finish o r).res.fcRaw = s.res.fcRaw := rfl
@[simp] theorem State.finish_res_fcValid (o : ParseOutcome) (r : BitVec 8) : (s.finish o r).res.fcValid = s.res.fcValid := rfl
@[simp] theorem State.finish_res_seq (o : ParseOutcome) (r : BitVec 8) : (s.finish o r).res.seq = s.res.seq := rfl
@[simp] theorem State.finish_res_seqValid (o : ParseOutcome) (r : BitVec 8) : (s.finish o r).res.seqValid = s.res.seqValid := rfl
@[simp] theorem State.finish_res_panId (o : ParseOutcome) (r : BitVec 8) : (s.finish o r).res.panId = s.res.panId := rfl
@[simp] theorem State.finish_res_panValid (o : ParseOutcome) (r : BitVec 8) : (s.finish o r).res.panValid = s.res.panValid := rfl
@[simp] theorem State.finish_res_bcast (o : ParseOutcome) (r : BitVec 8) : (s.finish o r).res.bcast = s.res.bcast := rfl
@[simp] theorem State.finish_res_dstKind (o : ParseOutcome) (r : BitVec 8) : (s.finish o r).res.dstKind = s.res.dstKind := rfl
@[simp] theorem State.finish_res_dstAddr (o : ParseOutcome) (r : BitVec 8) : (s.finish o r).res.dstAddr = s.res.dstAddr := rfl
@[simp] theorem State.finish_res_srcKind (o : ParseOutcome) (r : BitVec 8) : (s.finish o r).res.srcKind = s.res.srcKind := rfl
@[simp] theorem State.finish_res_srcAddr (o : ParseOutcome) (r : BitVec 8) : (s.finish o r).res.srcAddr = s.res.srcAddr := rfl
@[simp] theorem State.finish_res_hdrLen (o : ParseOutcome) (r : BitVec 8) : (s.finish o r).res.hdrLen = s.res.hdrLen := rfl
@[simp] theorem State.finish_res_hdrValid (o : ParseOutcome) (r : BitVec 8) : (s.finish o r).res.hdrValid = s.res.hdrValid := rfl
@[simp] theorem State.finish_res_payOff (o : ParseOutcome) (r : BitVec 8) : (s.finish o r).res.payOff = s.res.payOff := rfl
@[simp] theorem State.finish_res_payLen (o : ParseOutcome) (r : BitVec 8) : (s.finish o r).res.payLen = s.res.payLen := rfl
@[simp] theorem State.finish_res_ctLen (o : ParseOutcome) (r : BitVec 8) : (s.finish o r).res.ctLen = s.res.ctLen := rfl
@[simp] theorem State.finish_res_adLen (o : ParseOutcome) (r : BitVec 8) : (s.finish o r).res.adLen = s.res.adLen := rfl
@[simp] theorem State.finish_res_tagOff (o : ParseOutcome) (r : BitVec 8) : (s.finish o r).res.tagOff = s.res.tagOff := rfl
@[simp] theorem State.finish_res_ctrOff (o : ParseOutcome) (r : BitVec 8) : (s.finish o r).res.ctrOff = s.res.ctrOff := rfl
@[simp] theorem State.finish_res_frameCounter (o : ParseOutcome) (r : BitVec 8) : (s.finish o r).res.frameCounter = s.res.frameCounter := rfl
@[simp] theorem State.finish_res_segValid (o : ParseOutcome) (r : BitVec 8) : (s.finish o r).res.segValid = s.res.segValid := rfl
@[simp] theorem State.finish_res_nonce (o : ParseOutcome) (r : BitVec 8) : (s.finish o r).res.nonce = s.res.nonce := rfl
@[simp] theorem State.finish_res_nonceValid (o : ParseOutcome) (r : BitVec 8) : (s.finish o r).res.nonceValid = s.res.nonceValid := rfl

/-! captureFc -/

@[simp] theorem State.captureFc_frameBuf (fc : BitVec 16) : (s.captureFc fc).frameBuf = s.frameBuf := rfl
@[simp] theorem State.captureFc_epoch (fc : BitVec 16) : (s.captureFc fc).epoch = s.epoch := rfl
@[simp] theorem State.captureFc_frameLen (fc : BitVec 16) : (s.captureFc fc).frameLen = s.frameLen := rfl
@[simp] theorem State.captureFc_cfgPan (fc : BitVec 16) : (s.captureFc fc).cfgPan = s.cfgPan := rfl
@[simp] theorem State.captureFc_cfgPanWritten (fc : BitVec 16) : (s.captureFc fc).cfgPanWritten = s.cfgPanWritten := rfl
@[simp] theorem State.captureFc_irqEn (fc : BitVec 16) : (s.captureFc fc).irqEn = s.irqEn := rfl
@[simp] theorem State.captureFc_busy (fc : BitVec 16) : (s.captureFc fc).busy = s.busy := rfl
@[simp] theorem State.captureFc_done (fc : BitVec 16) : (s.captureFc fc).done = s.done := rfl
@[simp] theorem State.captureFc_ccmReq (fc : BitVec 16) : (s.captureFc fc).ccmReq = s.ccmReq := rfl
@[simp] theorem State.captureFc_state (fc : BitVec 16) : (s.captureFc fc).state = s.state := rfl
@[simp] theorem State.captureFc_wrWhileBusy (fc : BitVec 16) : (s.captureFc fc).wrWhileBusy = s.wrWhileBusy := rfl
@[simp] theorem State.captureFc_cmdWhileBusy (fc : BitVec 16) : (s.captureFc fc).cmdWhileBusy = s.cmdWhileBusy := rfl
@[simp] theorem State.captureFc_badCmd (fc : BitVec 16) : (s.captureFc fc).badCmd = s.badCmd := rfl
@[simp] theorem State.captureFc_busErr (fc : BitVec 16) : (s.captureFc fc).busErr = s.busErr := rfl
@[simp] theorem State.captureFc_off (fc : BitVec 16) : (s.captureFc fc).off = 2#8 := rfl
@[simp] theorem State.captureFc_ccmDone (fc : BitVec 16) : (s.captureFc fc).ccmDone = s.ccmDone := rfl
@[simp] theorem State.captureFc_rdata (fc : BitVec 16) : (s.captureFc fc).rdata = s.rdata := rfl
@[simp] theorem State.captureFc_turns (fc : BitVec 16) : (s.captureFc fc).turns = s.turns := rfl
@[simp] theorem State.captureFc_res_outcome (fc : BitVec 16) : (s.captureFc fc).res.outcome = s.res.outcome := rfl
@[simp] theorem State.captureFc_res_reason (fc : BitVec 16) : (s.captureFc fc).res.reason = s.res.reason := rfl
@[simp] theorem State.captureFc_res_endOff (fc : BitVec 16) : (s.captureFc fc).res.endOff = s.res.endOff := rfl
@[simp] theorem State.captureFc_res_fcRaw (fc : BitVec 16) : (s.captureFc fc).res.fcRaw = fc := rfl
@[simp] theorem State.captureFc_res_fcValid (fc : BitVec 16) : (s.captureFc fc).res.fcValid = true := rfl
@[simp] theorem State.captureFc_res_seq (fc : BitVec 16) : (s.captureFc fc).res.seq = s.res.seq := rfl
@[simp] theorem State.captureFc_res_seqValid (fc : BitVec 16) : (s.captureFc fc).res.seqValid = s.res.seqValid := rfl
@[simp] theorem State.captureFc_res_panId (fc : BitVec 16) : (s.captureFc fc).res.panId = s.res.panId := rfl
@[simp] theorem State.captureFc_res_panValid (fc : BitVec 16) : (s.captureFc fc).res.panValid = s.res.panValid := rfl
@[simp] theorem State.captureFc_res_bcast (fc : BitVec 16) : (s.captureFc fc).res.bcast = s.res.bcast := rfl
@[simp] theorem State.captureFc_res_dstKind (fc : BitVec 16) : (s.captureFc fc).res.dstKind = s.res.dstKind := rfl
@[simp] theorem State.captureFc_res_dstAddr (fc : BitVec 16) : (s.captureFc fc).res.dstAddr = s.res.dstAddr := rfl
@[simp] theorem State.captureFc_res_srcKind (fc : BitVec 16) : (s.captureFc fc).res.srcKind = s.res.srcKind := rfl
@[simp] theorem State.captureFc_res_srcAddr (fc : BitVec 16) : (s.captureFc fc).res.srcAddr = s.res.srcAddr := rfl
@[simp] theorem State.captureFc_res_hdrLen (fc : BitVec 16) : (s.captureFc fc).res.hdrLen = s.res.hdrLen := rfl
@[simp] theorem State.captureFc_res_hdrValid (fc : BitVec 16) : (s.captureFc fc).res.hdrValid = s.res.hdrValid := rfl
@[simp] theorem State.captureFc_res_payOff (fc : BitVec 16) : (s.captureFc fc).res.payOff = s.res.payOff := rfl
@[simp] theorem State.captureFc_res_payLen (fc : BitVec 16) : (s.captureFc fc).res.payLen = s.res.payLen := rfl
@[simp] theorem State.captureFc_res_ctLen (fc : BitVec 16) : (s.captureFc fc).res.ctLen = s.res.ctLen := rfl
@[simp] theorem State.captureFc_res_adLen (fc : BitVec 16) : (s.captureFc fc).res.adLen = s.res.adLen := rfl
@[simp] theorem State.captureFc_res_tagOff (fc : BitVec 16) : (s.captureFc fc).res.tagOff = s.res.tagOff := rfl
@[simp] theorem State.captureFc_res_ctrOff (fc : BitVec 16) : (s.captureFc fc).res.ctrOff = s.res.ctrOff := rfl
@[simp] theorem State.captureFc_res_frameCounter (fc : BitVec 16) : (s.captureFc fc).res.frameCounter = s.res.frameCounter := rfl
@[simp] theorem State.captureFc_res_segValid (fc : BitVec 16) : (s.captureFc fc).res.segValid = s.res.segValid := rfl
@[simp] theorem State.captureFc_res_nonce (fc : BitVec 16) : (s.captureFc fc).res.nonce = s.res.nonce := rfl
@[simp] theorem State.captureFc_res_nonceValid (fc : BitVec 16) : (s.captureFc fc).res.nonceValid = s.res.nonceValid := rfl

/-! takeSeq -/

@[simp] theorem State.takeSeq_frameBuf (b : Nat) : (s.takeSeq b).frameBuf = s.frameBuf := rfl
@[simp] theorem State.takeSeq_epoch (b : Nat) : (s.takeSeq b).epoch = s.epoch := rfl
@[simp] theorem State.takeSeq_frameLen (b : Nat) : (s.takeSeq b).frameLen = s.frameLen := rfl
@[simp] theorem State.takeSeq_cfgPan (b : Nat) : (s.takeSeq b).cfgPan = s.cfgPan := rfl
@[simp] theorem State.takeSeq_cfgPanWritten (b : Nat) : (s.takeSeq b).cfgPanWritten = s.cfgPanWritten := rfl
@[simp] theorem State.takeSeq_irqEn (b : Nat) : (s.takeSeq b).irqEn = s.irqEn := rfl
@[simp] theorem State.takeSeq_busy (b : Nat) : (s.takeSeq b).busy = s.busy := rfl
@[simp] theorem State.takeSeq_done (b : Nat) : (s.takeSeq b).done = s.done := rfl
@[simp] theorem State.takeSeq_ccmReq (b : Nat) : (s.takeSeq b).ccmReq = s.ccmReq := rfl
@[simp] theorem State.takeSeq_state (b : Nat) : (s.takeSeq b).state = s.state := rfl
@[simp] theorem State.takeSeq_wrWhileBusy (b : Nat) : (s.takeSeq b).wrWhileBusy = s.wrWhileBusy := rfl
@[simp] theorem State.takeSeq_cmdWhileBusy (b : Nat) : (s.takeSeq b).cmdWhileBusy = s.cmdWhileBusy := rfl
@[simp] theorem State.takeSeq_badCmd (b : Nat) : (s.takeSeq b).badCmd = s.badCmd := rfl
@[simp] theorem State.takeSeq_busErr (b : Nat) : (s.takeSeq b).busErr = s.busErr := rfl
@[simp] theorem State.takeSeq_off (b : Nat) : (s.takeSeq b).off = 3#8 := rfl
@[simp] theorem State.takeSeq_ccmDone (b : Nat) : (s.takeSeq b).ccmDone = s.ccmDone := rfl
@[simp] theorem State.takeSeq_rdata (b : Nat) : (s.takeSeq b).rdata = s.rdata := rfl
@[simp] theorem State.takeSeq_turns (b : Nat) : (s.takeSeq b).turns = s.turns := rfl
@[simp] theorem State.takeSeq_res_outcome (b : Nat) : (s.takeSeq b).res.outcome = s.res.outcome := rfl
@[simp] theorem State.takeSeq_res_reason (b : Nat) : (s.takeSeq b).res.reason = s.res.reason := rfl
@[simp] theorem State.takeSeq_res_endOff (b : Nat) : (s.takeSeq b).res.endOff = s.res.endOff := rfl
@[simp] theorem State.takeSeq_res_fcRaw (b : Nat) : (s.takeSeq b).res.fcRaw = s.res.fcRaw := rfl
@[simp] theorem State.takeSeq_res_fcValid (b : Nat) : (s.takeSeq b).res.fcValid = s.res.fcValid := rfl
@[simp] theorem State.takeSeq_res_seq (b : Nat) : (s.takeSeq b).res.seq = BitVec.ofNat 8 b := rfl
@[simp] theorem State.takeSeq_res_seqValid (b : Nat) : (s.takeSeq b).res.seqValid = true := rfl
@[simp] theorem State.takeSeq_res_panId (b : Nat) : (s.takeSeq b).res.panId = s.res.panId := rfl
@[simp] theorem State.takeSeq_res_panValid (b : Nat) : (s.takeSeq b).res.panValid = s.res.panValid := rfl
@[simp] theorem State.takeSeq_res_bcast (b : Nat) : (s.takeSeq b).res.bcast = s.res.bcast := rfl
@[simp] theorem State.takeSeq_res_dstKind (b : Nat) : (s.takeSeq b).res.dstKind = s.res.dstKind := rfl
@[simp] theorem State.takeSeq_res_dstAddr (b : Nat) : (s.takeSeq b).res.dstAddr = s.res.dstAddr := rfl
@[simp] theorem State.takeSeq_res_srcKind (b : Nat) : (s.takeSeq b).res.srcKind = s.res.srcKind := rfl
@[simp] theorem State.takeSeq_res_srcAddr (b : Nat) : (s.takeSeq b).res.srcAddr = s.res.srcAddr := rfl
@[simp] theorem State.takeSeq_res_hdrLen (b : Nat) : (s.takeSeq b).res.hdrLen = s.res.hdrLen := rfl
@[simp] theorem State.takeSeq_res_hdrValid (b : Nat) : (s.takeSeq b).res.hdrValid = s.res.hdrValid := rfl
@[simp] theorem State.takeSeq_res_payOff (b : Nat) : (s.takeSeq b).res.payOff = s.res.payOff := rfl
@[simp] theorem State.takeSeq_res_payLen (b : Nat) : (s.takeSeq b).res.payLen = s.res.payLen := rfl
@[simp] theorem State.takeSeq_res_ctLen (b : Nat) : (s.takeSeq b).res.ctLen = s.res.ctLen := rfl
@[simp] theorem State.takeSeq_res_adLen (b : Nat) : (s.takeSeq b).res.adLen = s.res.adLen := rfl
@[simp] theorem State.takeSeq_res_tagOff (b : Nat) : (s.takeSeq b).res.tagOff = s.res.tagOff := rfl
@[simp] theorem State.takeSeq_res_ctrOff (b : Nat) : (s.takeSeq b).res.ctrOff = s.res.ctrOff := rfl
@[simp] theorem State.takeSeq_res_frameCounter (b : Nat) : (s.takeSeq b).res.frameCounter = s.res.frameCounter := rfl
@[simp] theorem State.takeSeq_res_segValid (b : Nat) : (s.takeSeq b).res.segValid = s.res.segValid := rfl
@[simp] theorem State.takeSeq_res_nonce (b : Nat) : (s.takeSeq b).res.nonce = s.res.nonce := rfl
@[simp] theorem State.takeSeq_res_nonceValid (b : Nat) : (s.takeSeq b).res.nonceValid = s.res.nonceValid := rfl

/-! takeDstPan -/

@[simp] theorem State.takeDstPan_frameBuf (p : Nat) : (s.takeDstPan p).frameBuf = s.frameBuf := rfl
@[simp] theorem State.takeDstPan_epoch (p : Nat) : (s.takeDstPan p).epoch = s.epoch := rfl
@[simp] theorem State.takeDstPan_frameLen (p : Nat) : (s.takeDstPan p).frameLen = s.frameLen := rfl
@[simp] theorem State.takeDstPan_cfgPan (p : Nat) : (s.takeDstPan p).cfgPan = s.cfgPan := rfl
@[simp] theorem State.takeDstPan_cfgPanWritten (p : Nat) : (s.takeDstPan p).cfgPanWritten = s.cfgPanWritten := rfl
@[simp] theorem State.takeDstPan_irqEn (p : Nat) : (s.takeDstPan p).irqEn = s.irqEn := rfl
@[simp] theorem State.takeDstPan_busy (p : Nat) : (s.takeDstPan p).busy = s.busy := rfl
@[simp] theorem State.takeDstPan_done (p : Nat) : (s.takeDstPan p).done = s.done := rfl
@[simp] theorem State.takeDstPan_ccmReq (p : Nat) : (s.takeDstPan p).ccmReq = s.ccmReq := rfl
@[simp] theorem State.takeDstPan_state (p : Nat) : (s.takeDstPan p).state = s.state := rfl
@[simp] theorem State.takeDstPan_wrWhileBusy (p : Nat) : (s.takeDstPan p).wrWhileBusy = s.wrWhileBusy := rfl
@[simp] theorem State.takeDstPan_cmdWhileBusy (p : Nat) : (s.takeDstPan p).cmdWhileBusy = s.cmdWhileBusy := rfl
@[simp] theorem State.takeDstPan_badCmd (p : Nat) : (s.takeDstPan p).badCmd = s.badCmd := rfl
@[simp] theorem State.takeDstPan_busErr (p : Nat) : (s.takeDstPan p).busErr = s.busErr := rfl
@[simp] theorem State.takeDstPan_off (p : Nat) : (s.takeDstPan p).off = s.off + 2#8 := rfl
@[simp] theorem State.takeDstPan_ccmDone (p : Nat) : (s.takeDstPan p).ccmDone = s.ccmDone := rfl
@[simp] theorem State.takeDstPan_rdata (p : Nat) : (s.takeDstPan p).rdata = s.rdata := rfl
@[simp] theorem State.takeDstPan_turns (p : Nat) : (s.takeDstPan p).turns = s.turns := rfl
@[simp] theorem State.takeDstPan_res_outcome (p : Nat) : (s.takeDstPan p).res.outcome = s.res.outcome := rfl
@[simp] theorem State.takeDstPan_res_reason (p : Nat) : (s.takeDstPan p).res.reason = s.res.reason := rfl
@[simp] theorem State.takeDstPan_res_endOff (p : Nat) : (s.takeDstPan p).res.endOff = s.res.endOff := rfl
@[simp] theorem State.takeDstPan_res_fcRaw (p : Nat) : (s.takeDstPan p).res.fcRaw = s.res.fcRaw := rfl
@[simp] theorem State.takeDstPan_res_fcValid (p : Nat) : (s.takeDstPan p).res.fcValid = s.res.fcValid := rfl
@[simp] theorem State.takeDstPan_res_seq (p : Nat) : (s.takeDstPan p).res.seq = s.res.seq := rfl
@[simp] theorem State.takeDstPan_res_seqValid (p : Nat) : (s.takeDstPan p).res.seqValid = s.res.seqValid := rfl
@[simp] theorem State.takeDstPan_res_panId (p : Nat) : (s.takeDstPan p).res.panId = BitVec.ofNat 16 p := rfl
@[simp] theorem State.takeDstPan_res_panValid (p : Nat) : (s.takeDstPan p).res.panValid = true := rfl
@[simp] theorem State.takeDstPan_res_bcast (p : Nat) : (s.takeDstPan p).res.bcast = s.res.bcast := rfl
@[simp] theorem State.takeDstPan_res_dstKind (p : Nat) : (s.takeDstPan p).res.dstKind = s.res.dstKind := rfl
@[simp] theorem State.takeDstPan_res_dstAddr (p : Nat) : (s.takeDstPan p).res.dstAddr = s.res.dstAddr := rfl
@[simp] theorem State.takeDstPan_res_srcKind (p : Nat) : (s.takeDstPan p).res.srcKind = s.res.srcKind := rfl
@[simp] theorem State.takeDstPan_res_srcAddr (p : Nat) : (s.takeDstPan p).res.srcAddr = s.res.srcAddr := rfl
@[simp] theorem State.takeDstPan_res_hdrLen (p : Nat) : (s.takeDstPan p).res.hdrLen = s.res.hdrLen := rfl
@[simp] theorem State.takeDstPan_res_hdrValid (p : Nat) : (s.takeDstPan p).res.hdrValid = s.res.hdrValid := rfl
@[simp] theorem State.takeDstPan_res_payOff (p : Nat) : (s.takeDstPan p).res.payOff = s.res.payOff := rfl
@[simp] theorem State.takeDstPan_res_payLen (p : Nat) : (s.takeDstPan p).res.payLen = s.res.payLen := rfl
@[simp] theorem State.takeDstPan_res_ctLen (p : Nat) : (s.takeDstPan p).res.ctLen = s.res.ctLen := rfl
@[simp] theorem State.takeDstPan_res_adLen (p : Nat) : (s.takeDstPan p).res.adLen = s.res.adLen := rfl
@[simp] theorem State.takeDstPan_res_tagOff (p : Nat) : (s.takeDstPan p).res.tagOff = s.res.tagOff := rfl
@[simp] theorem State.takeDstPan_res_ctrOff (p : Nat) : (s.takeDstPan p).res.ctrOff = s.res.ctrOff := rfl
@[simp] theorem State.takeDstPan_res_frameCounter (p : Nat) : (s.takeDstPan p).res.frameCounter = s.res.frameCounter := rfl
@[simp] theorem State.takeDstPan_res_segValid (p : Nat) : (s.takeDstPan p).res.segValid = s.res.segValid := rfl
@[simp] theorem State.takeDstPan_res_nonce (p : Nat) : (s.takeDstPan p).res.nonce = s.res.nonce := rfl
@[simp] theorem State.takeDstPan_res_nonceValid (p : Nat) : (s.takeDstPan p).res.nonceValid = s.res.nonceValid := rfl

/-! takeSrcPan -/

@[simp] theorem State.takeSrcPan_frameBuf (p : Nat) : (s.takeSrcPan p).frameBuf = s.frameBuf := rfl
@[simp] theorem State.takeSrcPan_epoch (p : Nat) : (s.takeSrcPan p).epoch = s.epoch := rfl
@[simp] theorem State.takeSrcPan_frameLen (p : Nat) : (s.takeSrcPan p).frameLen = s.frameLen := rfl
@[simp] theorem State.takeSrcPan_cfgPan (p : Nat) : (s.takeSrcPan p).cfgPan = s.cfgPan := rfl
@[simp] theorem State.takeSrcPan_cfgPanWritten (p : Nat) : (s.takeSrcPan p).cfgPanWritten = s.cfgPanWritten := rfl
@[simp] theorem State.takeSrcPan_irqEn (p : Nat) : (s.takeSrcPan p).irqEn = s.irqEn := rfl
@[simp] theorem State.takeSrcPan_busy (p : Nat) : (s.takeSrcPan p).busy = s.busy := rfl
@[simp] theorem State.takeSrcPan_done (p : Nat) : (s.takeSrcPan p).done = s.done := rfl
@[simp] theorem State.takeSrcPan_ccmReq (p : Nat) : (s.takeSrcPan p).ccmReq = s.ccmReq := rfl
@[simp] theorem State.takeSrcPan_state (p : Nat) : (s.takeSrcPan p).state = s.state := rfl
@[simp] theorem State.takeSrcPan_wrWhileBusy (p : Nat) : (s.takeSrcPan p).wrWhileBusy = s.wrWhileBusy := rfl
@[simp] theorem State.takeSrcPan_cmdWhileBusy (p : Nat) : (s.takeSrcPan p).cmdWhileBusy = s.cmdWhileBusy := rfl
@[simp] theorem State.takeSrcPan_badCmd (p : Nat) : (s.takeSrcPan p).badCmd = s.badCmd := rfl
@[simp] theorem State.takeSrcPan_busErr (p : Nat) : (s.takeSrcPan p).busErr = s.busErr := rfl
@[simp] theorem State.takeSrcPan_off (p : Nat) : (s.takeSrcPan p).off = s.off + 2#8 := rfl
@[simp] theorem State.takeSrcPan_ccmDone (p : Nat) : (s.takeSrcPan p).ccmDone = s.ccmDone := rfl
@[simp] theorem State.takeSrcPan_rdata (p : Nat) : (s.takeSrcPan p).rdata = s.rdata := rfl
@[simp] theorem State.takeSrcPan_turns (p : Nat) : (s.takeSrcPan p).turns = s.turns := rfl
@[simp] theorem State.takeSrcPan_res_outcome (p : Nat) : (s.takeSrcPan p).res.outcome = s.res.outcome := rfl
@[simp] theorem State.takeSrcPan_res_reason (p : Nat) : (s.takeSrcPan p).res.reason = s.res.reason := rfl
@[simp] theorem State.takeSrcPan_res_endOff (p : Nat) : (s.takeSrcPan p).res.endOff = s.res.endOff := rfl
@[simp] theorem State.takeSrcPan_res_fcRaw (p : Nat) : (s.takeSrcPan p).res.fcRaw = s.res.fcRaw := rfl
@[simp] theorem State.takeSrcPan_res_fcValid (p : Nat) : (s.takeSrcPan p).res.fcValid = s.res.fcValid := rfl
@[simp] theorem State.takeSrcPan_res_seq (p : Nat) : (s.takeSrcPan p).res.seq = s.res.seq := rfl
@[simp] theorem State.takeSrcPan_res_seqValid (p : Nat) : (s.takeSrcPan p).res.seqValid = s.res.seqValid := rfl
@[simp] theorem State.takeSrcPan_res_panId (p : Nat) : (s.takeSrcPan p).res.panId = BitVec.ofNat 16 p := rfl
@[simp] theorem State.takeSrcPan_res_panValid (p : Nat) : (s.takeSrcPan p).res.panValid = s.res.panValid := rfl
@[simp] theorem State.takeSrcPan_res_bcast (p : Nat) : (s.takeSrcPan p).res.bcast = s.res.bcast := rfl
@[simp] theorem State.takeSrcPan_res_dstKind (p : Nat) : (s.takeSrcPan p).res.dstKind = s.res.dstKind := rfl
@[simp] theorem State.takeSrcPan_res_dstAddr (p : Nat) : (s.takeSrcPan p).res.dstAddr = s.res.dstAddr := rfl
@[simp] theorem State.takeSrcPan_res_srcKind (p : Nat) : (s.takeSrcPan p).res.srcKind = s.res.srcKind := rfl
@[simp] theorem State.takeSrcPan_res_srcAddr (p : Nat) : (s.takeSrcPan p).res.srcAddr = s.res.srcAddr := rfl
@[simp] theorem State.takeSrcPan_res_hdrLen (p : Nat) : (s.takeSrcPan p).res.hdrLen = s.res.hdrLen := rfl
@[simp] theorem State.takeSrcPan_res_hdrValid (p : Nat) : (s.takeSrcPan p).res.hdrValid = s.res.hdrValid := rfl
@[simp] theorem State.takeSrcPan_res_payOff (p : Nat) : (s.takeSrcPan p).res.payOff = s.res.payOff := rfl
@[simp] theorem State.takeSrcPan_res_payLen (p : Nat) : (s.takeSrcPan p).res.payLen = s.res.payLen := rfl
@[simp] theorem State.takeSrcPan_res_ctLen (p : Nat) : (s.takeSrcPan p).res.ctLen = s.res.ctLen := rfl
@[simp] theorem State.takeSrcPan_res_adLen (p : Nat) : (s.takeSrcPan p).res.adLen = s.res.adLen := rfl
@[simp] theorem State.takeSrcPan_res_tagOff (p : Nat) : (s.takeSrcPan p).res.tagOff = s.res.tagOff := rfl
@[simp] theorem State.takeSrcPan_res_ctrOff (p : Nat) : (s.takeSrcPan p).res.ctrOff = s.res.ctrOff := rfl
@[simp] theorem State.takeSrcPan_res_frameCounter (p : Nat) : (s.takeSrcPan p).res.frameCounter = s.res.frameCounter := rfl
@[simp] theorem State.takeSrcPan_res_segValid (p : Nat) : (s.takeSrcPan p).res.segValid = s.res.segValid := rfl
@[simp] theorem State.takeSrcPan_res_nonce (p : Nat) : (s.takeSrcPan p).res.nonce = s.res.nonce := rfl
@[simp] theorem State.takeSrcPan_res_nonceValid (p : Nat) : (s.takeSrcPan p).res.nonceValid = s.res.nonceValid := rfl

/-! takeDstAddr -/

@[simp] theorem State.takeDstAddr_frameBuf (k : AddrKind) (v : Nat) (n : Nat) : (s.takeDstAddr k v n).frameBuf = s.frameBuf := rfl
@[simp] theorem State.takeDstAddr_epoch (k : AddrKind) (v : Nat) (n : Nat) : (s.takeDstAddr k v n).epoch = s.epoch := rfl
@[simp] theorem State.takeDstAddr_frameLen (k : AddrKind) (v : Nat) (n : Nat) : (s.takeDstAddr k v n).frameLen = s.frameLen := rfl
@[simp] theorem State.takeDstAddr_cfgPan (k : AddrKind) (v : Nat) (n : Nat) : (s.takeDstAddr k v n).cfgPan = s.cfgPan := rfl
@[simp] theorem State.takeDstAddr_cfgPanWritten (k : AddrKind) (v : Nat) (n : Nat) : (s.takeDstAddr k v n).cfgPanWritten = s.cfgPanWritten := rfl
@[simp] theorem State.takeDstAddr_irqEn (k : AddrKind) (v : Nat) (n : Nat) : (s.takeDstAddr k v n).irqEn = s.irqEn := rfl
@[simp] theorem State.takeDstAddr_busy (k : AddrKind) (v : Nat) (n : Nat) : (s.takeDstAddr k v n).busy = s.busy := rfl
@[simp] theorem State.takeDstAddr_done (k : AddrKind) (v : Nat) (n : Nat) : (s.takeDstAddr k v n).done = s.done := rfl
@[simp] theorem State.takeDstAddr_ccmReq (k : AddrKind) (v : Nat) (n : Nat) : (s.takeDstAddr k v n).ccmReq = s.ccmReq := rfl
@[simp] theorem State.takeDstAddr_state (k : AddrKind) (v : Nat) (n : Nat) : (s.takeDstAddr k v n).state = s.state := rfl
@[simp] theorem State.takeDstAddr_wrWhileBusy (k : AddrKind) (v : Nat) (n : Nat) : (s.takeDstAddr k v n).wrWhileBusy = s.wrWhileBusy := rfl
@[simp] theorem State.takeDstAddr_cmdWhileBusy (k : AddrKind) (v : Nat) (n : Nat) : (s.takeDstAddr k v n).cmdWhileBusy = s.cmdWhileBusy := rfl
@[simp] theorem State.takeDstAddr_badCmd (k : AddrKind) (v : Nat) (n : Nat) : (s.takeDstAddr k v n).badCmd = s.badCmd := rfl
@[simp] theorem State.takeDstAddr_busErr (k : AddrKind) (v : Nat) (n : Nat) : (s.takeDstAddr k v n).busErr = s.busErr := rfl
@[simp] theorem State.takeDstAddr_off (k : AddrKind) (v : Nat) (n : Nat) : (s.takeDstAddr k v n).off = s.off + BitVec.ofNat 8 n := rfl
@[simp] theorem State.takeDstAddr_ccmDone (k : AddrKind) (v : Nat) (n : Nat) : (s.takeDstAddr k v n).ccmDone = s.ccmDone := rfl
@[simp] theorem State.takeDstAddr_rdata (k : AddrKind) (v : Nat) (n : Nat) : (s.takeDstAddr k v n).rdata = s.rdata := rfl
@[simp] theorem State.takeDstAddr_turns (k : AddrKind) (v : Nat) (n : Nat) : (s.takeDstAddr k v n).turns = s.turns := rfl
@[simp] theorem State.takeDstAddr_res_outcome (k : AddrKind) (v : Nat) (n : Nat) : (s.takeDstAddr k v n).res.outcome = s.res.outcome := rfl
@[simp] theorem State.takeDstAddr_res_reason (k : AddrKind) (v : Nat) (n : Nat) : (s.takeDstAddr k v n).res.reason = s.res.reason := rfl
@[simp] theorem State.takeDstAddr_res_endOff (k : AddrKind) (v : Nat) (n : Nat) : (s.takeDstAddr k v n).res.endOff = s.res.endOff := rfl
@[simp] theorem State.takeDstAddr_res_fcRaw (k : AddrKind) (v : Nat) (n : Nat) : (s.takeDstAddr k v n).res.fcRaw = s.res.fcRaw := rfl
@[simp] theorem State.takeDstAddr_res_fcValid (k : AddrKind) (v : Nat) (n : Nat) : (s.takeDstAddr k v n).res.fcValid = s.res.fcValid := rfl
@[simp] theorem State.takeDstAddr_res_seq (k : AddrKind) (v : Nat) (n : Nat) : (s.takeDstAddr k v n).res.seq = s.res.seq := rfl
@[simp] theorem State.takeDstAddr_res_seqValid (k : AddrKind) (v : Nat) (n : Nat) : (s.takeDstAddr k v n).res.seqValid = s.res.seqValid := rfl
@[simp] theorem State.takeDstAddr_res_panId (k : AddrKind) (v : Nat) (n : Nat) : (s.takeDstAddr k v n).res.panId = s.res.panId := rfl
@[simp] theorem State.takeDstAddr_res_panValid (k : AddrKind) (v : Nat) (n : Nat) : (s.takeDstAddr k v n).res.panValid = s.res.panValid := rfl
@[simp] theorem State.takeDstAddr_res_bcast (k : AddrKind) (v : Nat) (n : Nat) : (s.takeDstAddr k v n).res.bcast = s.res.bcast := rfl
@[simp] theorem State.takeDstAddr_res_dstKind (k : AddrKind) (v : Nat) (n : Nat) : (s.takeDstAddr k v n).res.dstKind = k := rfl
@[simp] theorem State.takeDstAddr_res_dstAddr (k : AddrKind) (v : Nat) (n : Nat) : (s.takeDstAddr k v n).res.dstAddr = BitVec.ofNat 64 v := rfl
@[simp] theorem State.takeDstAddr_res_srcKind (k : AddrKind) (v : Nat) (n : Nat) : (s.takeDstAddr k v n).res.srcKind = s.res.srcKind := rfl
@[simp] theorem State.takeDstAddr_res_srcAddr (k : AddrKind) (v : Nat) (n : Nat) : (s.takeDstAddr k v n).res.srcAddr = s.res.srcAddr := rfl
@[simp] theorem State.takeDstAddr_res_hdrLen (k : AddrKind) (v : Nat) (n : Nat) : (s.takeDstAddr k v n).res.hdrLen = s.res.hdrLen := rfl
@[simp] theorem State.takeDstAddr_res_hdrValid (k : AddrKind) (v : Nat) (n : Nat) : (s.takeDstAddr k v n).res.hdrValid = s.res.hdrValid := rfl
@[simp] theorem State.takeDstAddr_res_payOff (k : AddrKind) (v : Nat) (n : Nat) : (s.takeDstAddr k v n).res.payOff = s.res.payOff := rfl
@[simp] theorem State.takeDstAddr_res_payLen (k : AddrKind) (v : Nat) (n : Nat) : (s.takeDstAddr k v n).res.payLen = s.res.payLen := rfl
@[simp] theorem State.takeDstAddr_res_ctLen (k : AddrKind) (v : Nat) (n : Nat) : (s.takeDstAddr k v n).res.ctLen = s.res.ctLen := rfl
@[simp] theorem State.takeDstAddr_res_adLen (k : AddrKind) (v : Nat) (n : Nat) : (s.takeDstAddr k v n).res.adLen = s.res.adLen := rfl
@[simp] theorem State.takeDstAddr_res_tagOff (k : AddrKind) (v : Nat) (n : Nat) : (s.takeDstAddr k v n).res.tagOff = s.res.tagOff := rfl
@[simp] theorem State.takeDstAddr_res_ctrOff (k : AddrKind) (v : Nat) (n : Nat) : (s.takeDstAddr k v n).res.ctrOff = s.res.ctrOff := rfl
@[simp] theorem State.takeDstAddr_res_frameCounter (k : AddrKind) (v : Nat) (n : Nat) : (s.takeDstAddr k v n).res.frameCounter = s.res.frameCounter := rfl
@[simp] theorem State.takeDstAddr_res_segValid (k : AddrKind) (v : Nat) (n : Nat) : (s.takeDstAddr k v n).res.segValid = s.res.segValid := rfl
@[simp] theorem State.takeDstAddr_res_nonce (k : AddrKind) (v : Nat) (n : Nat) : (s.takeDstAddr k v n).res.nonce = s.res.nonce := rfl
@[simp] theorem State.takeDstAddr_res_nonceValid (k : AddrKind) (v : Nat) (n : Nat) : (s.takeDstAddr k v n).res.nonceValid = s.res.nonceValid := rfl

/-! takeBroadcast -/

@[simp] theorem State.takeBroadcast_frameBuf : (s.takeBroadcast).frameBuf = s.frameBuf := rfl
@[simp] theorem State.takeBroadcast_epoch : (s.takeBroadcast).epoch = s.epoch := rfl
@[simp] theorem State.takeBroadcast_frameLen : (s.takeBroadcast).frameLen = s.frameLen := rfl
@[simp] theorem State.takeBroadcast_cfgPan : (s.takeBroadcast).cfgPan = s.cfgPan := rfl
@[simp] theorem State.takeBroadcast_cfgPanWritten : (s.takeBroadcast).cfgPanWritten = s.cfgPanWritten := rfl
@[simp] theorem State.takeBroadcast_irqEn : (s.takeBroadcast).irqEn = s.irqEn := rfl
@[simp] theorem State.takeBroadcast_busy : (s.takeBroadcast).busy = s.busy := rfl
@[simp] theorem State.takeBroadcast_done : (s.takeBroadcast).done = s.done := rfl
@[simp] theorem State.takeBroadcast_ccmReq : (s.takeBroadcast).ccmReq = s.ccmReq := rfl
@[simp] theorem State.takeBroadcast_state : (s.takeBroadcast).state = s.state := rfl
@[simp] theorem State.takeBroadcast_wrWhileBusy : (s.takeBroadcast).wrWhileBusy = s.wrWhileBusy := rfl
@[simp] theorem State.takeBroadcast_cmdWhileBusy : (s.takeBroadcast).cmdWhileBusy = s.cmdWhileBusy := rfl
@[simp] theorem State.takeBroadcast_badCmd : (s.takeBroadcast).badCmd = s.badCmd := rfl
@[simp] theorem State.takeBroadcast_busErr : (s.takeBroadcast).busErr = s.busErr := rfl
@[simp] theorem State.takeBroadcast_off : (s.takeBroadcast).off = s.off := rfl
@[simp] theorem State.takeBroadcast_ccmDone : (s.takeBroadcast).ccmDone = s.ccmDone := rfl
@[simp] theorem State.takeBroadcast_rdata : (s.takeBroadcast).rdata = s.rdata := rfl
@[simp] theorem State.takeBroadcast_turns : (s.takeBroadcast).turns = s.turns := rfl
@[simp] theorem State.takeBroadcast_res_outcome : (s.takeBroadcast).res.outcome = s.res.outcome := rfl
@[simp] theorem State.takeBroadcast_res_reason : (s.takeBroadcast).res.reason = s.res.reason := rfl
@[simp] theorem State.takeBroadcast_res_endOff : (s.takeBroadcast).res.endOff = s.res.endOff := rfl
@[simp] theorem State.takeBroadcast_res_fcRaw : (s.takeBroadcast).res.fcRaw = s.res.fcRaw := rfl
@[simp] theorem State.takeBroadcast_res_fcValid : (s.takeBroadcast).res.fcValid = s.res.fcValid := rfl
@[simp] theorem State.takeBroadcast_res_seq : (s.takeBroadcast).res.seq = s.res.seq := rfl
@[simp] theorem State.takeBroadcast_res_seqValid : (s.takeBroadcast).res.seqValid = s.res.seqValid := rfl
@[simp] theorem State.takeBroadcast_res_panId : (s.takeBroadcast).res.panId = s.res.panId := rfl
@[simp] theorem State.takeBroadcast_res_panValid : (s.takeBroadcast).res.panValid = s.res.panValid := rfl
@[simp] theorem State.takeBroadcast_res_bcast : (s.takeBroadcast).res.bcast = true := rfl
@[simp] theorem State.takeBroadcast_res_dstKind : (s.takeBroadcast).res.dstKind = s.res.dstKind := rfl
@[simp] theorem State.takeBroadcast_res_dstAddr : (s.takeBroadcast).res.dstAddr = BitVec.allOnes 64 := rfl
@[simp] theorem State.takeBroadcast_res_srcKind : (s.takeBroadcast).res.srcKind = s.res.srcKind := rfl
@[simp] theorem State.takeBroadcast_res_srcAddr : (s.takeBroadcast).res.srcAddr = s.res.srcAddr := rfl
@[simp] theorem State.takeBroadcast_res_hdrLen : (s.takeBroadcast).res.hdrLen = s.res.hdrLen := rfl
@[simp] theorem State.takeBroadcast_res_hdrValid : (s.takeBroadcast).res.hdrValid = s.res.hdrValid := rfl
@[simp] theorem State.takeBroadcast_res_payOff : (s.takeBroadcast).res.payOff = s.res.payOff := rfl
@[simp] theorem State.takeBroadcast_res_payLen : (s.takeBroadcast).res.payLen = s.res.payLen := rfl
@[simp] theorem State.takeBroadcast_res_ctLen : (s.takeBroadcast).res.ctLen = s.res.ctLen := rfl
@[simp] theorem State.takeBroadcast_res_adLen : (s.takeBroadcast).res.adLen = s.res.adLen := rfl
@[simp] theorem State.takeBroadcast_res_tagOff : (s.takeBroadcast).res.tagOff = s.res.tagOff := rfl
@[simp] theorem State.takeBroadcast_res_ctrOff : (s.takeBroadcast).res.ctrOff = s.res.ctrOff := rfl
@[simp] theorem State.takeBroadcast_res_frameCounter : (s.takeBroadcast).res.frameCounter = s.res.frameCounter := rfl
@[simp] theorem State.takeBroadcast_res_segValid : (s.takeBroadcast).res.segValid = s.res.segValid := rfl
@[simp] theorem State.takeBroadcast_res_nonce : (s.takeBroadcast).res.nonce = s.res.nonce := rfl
@[simp] theorem State.takeBroadcast_res_nonceValid : (s.takeBroadcast).res.nonceValid = s.res.nonceValid := rfl

/-! takeNoDst -/

@[simp] theorem State.takeNoDst_frameBuf : (s.takeNoDst).frameBuf = s.frameBuf := rfl
@[simp] theorem State.takeNoDst_epoch : (s.takeNoDst).epoch = s.epoch := rfl
@[simp] theorem State.takeNoDst_frameLen : (s.takeNoDst).frameLen = s.frameLen := rfl
@[simp] theorem State.takeNoDst_cfgPan : (s.takeNoDst).cfgPan = s.cfgPan := rfl
@[simp] theorem State.takeNoDst_cfgPanWritten : (s.takeNoDst).cfgPanWritten = s.cfgPanWritten := rfl
@[simp] theorem State.takeNoDst_irqEn : (s.takeNoDst).irqEn = s.irqEn := rfl
@[simp] theorem State.takeNoDst_busy : (s.takeNoDst).busy = s.busy := rfl
@[simp] theorem State.takeNoDst_done : (s.takeNoDst).done = s.done := rfl
@[simp] theorem State.takeNoDst_ccmReq : (s.takeNoDst).ccmReq = s.ccmReq := rfl
@[simp] theorem State.takeNoDst_state : (s.takeNoDst).state = s.state := rfl
@[simp] theorem State.takeNoDst_wrWhileBusy : (s.takeNoDst).wrWhileBusy = s.wrWhileBusy := rfl
@[simp] theorem State.takeNoDst_cmdWhileBusy : (s.takeNoDst).cmdWhileBusy = s.cmdWhileBusy := rfl
@[simp] theorem State.takeNoDst_badCmd : (s.takeNoDst).badCmd = s.badCmd := rfl
@[simp] theorem State.takeNoDst_busErr : (s.takeNoDst).busErr = s.busErr := rfl
@[simp] theorem State.takeNoDst_off : (s.takeNoDst).off = s.off := rfl
@[simp] theorem State.takeNoDst_ccmDone : (s.takeNoDst).ccmDone = s.ccmDone := rfl
@[simp] theorem State.takeNoDst_rdata : (s.takeNoDst).rdata = s.rdata := rfl
@[simp] theorem State.takeNoDst_turns : (s.takeNoDst).turns = s.turns := rfl
@[simp] theorem State.takeNoDst_res_outcome : (s.takeNoDst).res.outcome = s.res.outcome := rfl
@[simp] theorem State.takeNoDst_res_reason : (s.takeNoDst).res.reason = s.res.reason := rfl
@[simp] theorem State.takeNoDst_res_endOff : (s.takeNoDst).res.endOff = s.res.endOff := rfl
@[simp] theorem State.takeNoDst_res_fcRaw : (s.takeNoDst).res.fcRaw = s.res.fcRaw := rfl
@[simp] theorem State.takeNoDst_res_fcValid : (s.takeNoDst).res.fcValid = s.res.fcValid := rfl
@[simp] theorem State.takeNoDst_res_seq : (s.takeNoDst).res.seq = s.res.seq := rfl
@[simp] theorem State.takeNoDst_res_seqValid : (s.takeNoDst).res.seqValid = s.res.seqValid := rfl
@[simp] theorem State.takeNoDst_res_panId : (s.takeNoDst).res.panId = s.res.panId := rfl
@[simp] theorem State.takeNoDst_res_panValid : (s.takeNoDst).res.panValid = s.res.panValid := rfl
@[simp] theorem State.takeNoDst_res_bcast : (s.takeNoDst).res.bcast = s.res.bcast := rfl
@[simp] theorem State.takeNoDst_res_dstKind : (s.takeNoDst).res.dstKind = .none := rfl
@[simp] theorem State.takeNoDst_res_dstAddr : (s.takeNoDst).res.dstAddr = s.res.dstAddr := rfl
@[simp] theorem State.takeNoDst_res_srcKind : (s.takeNoDst).res.srcKind = s.res.srcKind := rfl
@[simp] theorem State.takeNoDst_res_srcAddr : (s.takeNoDst).res.srcAddr = s.res.srcAddr := rfl
@[simp] theorem State.takeNoDst_res_hdrLen : (s.takeNoDst).res.hdrLen = s.res.hdrLen := rfl
@[simp] theorem State.takeNoDst_res_hdrValid : (s.takeNoDst).res.hdrValid = s.res.hdrValid := rfl
@[simp] theorem State.takeNoDst_res_payOff : (s.takeNoDst).res.payOff = s.res.payOff := rfl
@[simp] theorem State.takeNoDst_res_payLen : (s.takeNoDst).res.payLen = s.res.payLen := rfl
@[simp] theorem State.takeNoDst_res_ctLen : (s.takeNoDst).res.ctLen = s.res.ctLen := rfl
@[simp] theorem State.takeNoDst_res_adLen : (s.takeNoDst).res.adLen = s.res.adLen := rfl
@[simp] theorem State.takeNoDst_res_tagOff : (s.takeNoDst).res.tagOff = s.res.tagOff := rfl
@[simp] theorem State.takeNoDst_res_ctrOff : (s.takeNoDst).res.ctrOff = s.res.ctrOff := rfl
@[simp] theorem State.takeNoDst_res_frameCounter : (s.takeNoDst).res.frameCounter = s.res.frameCounter := rfl
@[simp] theorem State.takeNoDst_res_segValid : (s.takeNoDst).res.segValid = s.res.segValid := rfl
@[simp] theorem State.takeNoDst_res_nonce : (s.takeNoDst).res.nonce = s.res.nonce := rfl
@[simp] theorem State.takeNoDst_res_nonceValid : (s.takeNoDst).res.nonceValid = s.res.nonceValid := rfl

/-! takeNoSrc -/

@[simp] theorem State.takeNoSrc_frameBuf : (s.takeNoSrc).frameBuf = s.frameBuf := rfl
@[simp] theorem State.takeNoSrc_epoch : (s.takeNoSrc).epoch = s.epoch := rfl
@[simp] theorem State.takeNoSrc_frameLen : (s.takeNoSrc).frameLen = s.frameLen := rfl
@[simp] theorem State.takeNoSrc_cfgPan : (s.takeNoSrc).cfgPan = s.cfgPan := rfl
@[simp] theorem State.takeNoSrc_cfgPanWritten : (s.takeNoSrc).cfgPanWritten = s.cfgPanWritten := rfl
@[simp] theorem State.takeNoSrc_irqEn : (s.takeNoSrc).irqEn = s.irqEn := rfl
@[simp] theorem State.takeNoSrc_busy : (s.takeNoSrc).busy = s.busy := rfl
@[simp] theorem State.takeNoSrc_done : (s.takeNoSrc).done = s.done := rfl
@[simp] theorem State.takeNoSrc_ccmReq : (s.takeNoSrc).ccmReq = s.ccmReq := rfl
@[simp] theorem State.takeNoSrc_state : (s.takeNoSrc).state = s.state := rfl
@[simp] theorem State.takeNoSrc_wrWhileBusy : (s.takeNoSrc).wrWhileBusy = s.wrWhileBusy := rfl
@[simp] theorem State.takeNoSrc_cmdWhileBusy : (s.takeNoSrc).cmdWhileBusy = s.cmdWhileBusy := rfl
@[simp] theorem State.takeNoSrc_badCmd : (s.takeNoSrc).badCmd = s.badCmd := rfl
@[simp] theorem State.takeNoSrc_busErr : (s.takeNoSrc).busErr = s.busErr := rfl
@[simp] theorem State.takeNoSrc_off : (s.takeNoSrc).off = s.off := rfl
@[simp] theorem State.takeNoSrc_ccmDone : (s.takeNoSrc).ccmDone = s.ccmDone := rfl
@[simp] theorem State.takeNoSrc_rdata : (s.takeNoSrc).rdata = s.rdata := rfl
@[simp] theorem State.takeNoSrc_turns : (s.takeNoSrc).turns = s.turns := rfl
@[simp] theorem State.takeNoSrc_res_outcome : (s.takeNoSrc).res.outcome = s.res.outcome := rfl
@[simp] theorem State.takeNoSrc_res_reason : (s.takeNoSrc).res.reason = s.res.reason := rfl
@[simp] theorem State.takeNoSrc_res_endOff : (s.takeNoSrc).res.endOff = s.res.endOff := rfl
@[simp] theorem State.takeNoSrc_res_fcRaw : (s.takeNoSrc).res.fcRaw = s.res.fcRaw := rfl
@[simp] theorem State.takeNoSrc_res_fcValid : (s.takeNoSrc).res.fcValid = s.res.fcValid := rfl
@[simp] theorem State.takeNoSrc_res_seq : (s.takeNoSrc).res.seq = s.res.seq := rfl
@[simp] theorem State.takeNoSrc_res_seqValid : (s.takeNoSrc).res.seqValid = s.res.seqValid := rfl
@[simp] theorem State.takeNoSrc_res_panId : (s.takeNoSrc).res.panId = s.res.panId := rfl
@[simp] theorem State.takeNoSrc_res_panValid : (s.takeNoSrc).res.panValid = s.res.panValid := rfl
@[simp] theorem State.takeNoSrc_res_bcast : (s.takeNoSrc).res.bcast = s.res.bcast := rfl
@[simp] theorem State.takeNoSrc_res_dstKind : (s.takeNoSrc).res.dstKind = s.res.dstKind := rfl
@[simp] theorem State.takeNoSrc_res_dstAddr : (s.takeNoSrc).res.dstAddr = s.res.dstAddr := rfl
@[simp] theorem State.takeNoSrc_res_srcKind : (s.takeNoSrc).res.srcKind = .none := rfl
@[simp] theorem State.takeNoSrc_res_srcAddr : (s.takeNoSrc).res.srcAddr = s.res.srcAddr := rfl
@[simp] theorem State.takeNoSrc_res_hdrLen : (s.takeNoSrc).res.hdrLen = s.res.hdrLen := rfl
@[simp] theorem State.takeNoSrc_res_hdrValid : (s.takeNoSrc).res.hdrValid = s.res.hdrValid := rfl
@[simp] theorem State.takeNoSrc_res_payOff : (s.takeNoSrc).res.payOff = s.res.payOff := rfl
@[simp] theorem State.takeNoSrc_res_payLen : (s.takeNoSrc).res.payLen = s.res.payLen := rfl
@[simp] theorem State.takeNoSrc_res_ctLen : (s.takeNoSrc).res.ctLen = s.res.ctLen := rfl
@[simp] theorem State.takeNoSrc_res_adLen : (s.takeNoSrc).res.adLen = s.res.adLen := rfl
@[simp] theorem State.takeNoSrc_res_tagOff : (s.takeNoSrc).res.tagOff = s.res.tagOff := rfl
@[simp] theorem State.takeNoSrc_res_ctrOff : (s.takeNoSrc).res.ctrOff = s.res.ctrOff := rfl
@[simp] theorem State.takeNoSrc_res_frameCounter : (s.takeNoSrc).res.frameCounter = s.res.frameCounter := rfl
@[simp] theorem State.takeNoSrc_res_segValid : (s.takeNoSrc).res.segValid = s.res.segValid := rfl
@[simp] theorem State.takeNoSrc_res_nonce : (s.takeNoSrc).res.nonce = s.res.nonce := rfl
@[simp] theorem State.takeNoSrc_res_nonceValid : (s.takeNoSrc).res.nonceValid = s.res.nonceValid := rfl

/-! takeSrcAddr -/

@[simp] theorem State.takeSrcAddr_frameBuf (k : AddrKind) (v : Nat) (n : Nat) : (s.takeSrcAddr k v n).frameBuf = s.frameBuf := rfl
@[simp] theorem State.takeSrcAddr_epoch (k : AddrKind) (v : Nat) (n : Nat) : (s.takeSrcAddr k v n).epoch = s.epoch := rfl
@[simp] theorem State.takeSrcAddr_frameLen (k : AddrKind) (v : Nat) (n : Nat) : (s.takeSrcAddr k v n).frameLen = s.frameLen := rfl
@[simp] theorem State.takeSrcAddr_cfgPan (k : AddrKind) (v : Nat) (n : Nat) : (s.takeSrcAddr k v n).cfgPan = s.cfgPan := rfl
@[simp] theorem State.takeSrcAddr_cfgPanWritten (k : AddrKind) (v : Nat) (n : Nat) : (s.takeSrcAddr k v n).cfgPanWritten = s.cfgPanWritten := rfl
@[simp] theorem State.takeSrcAddr_irqEn (k : AddrKind) (v : Nat) (n : Nat) : (s.takeSrcAddr k v n).irqEn = s.irqEn := rfl
@[simp] theorem State.takeSrcAddr_busy (k : AddrKind) (v : Nat) (n : Nat) : (s.takeSrcAddr k v n).busy = s.busy := rfl
@[simp] theorem State.takeSrcAddr_done (k : AddrKind) (v : Nat) (n : Nat) : (s.takeSrcAddr k v n).done = s.done := rfl
@[simp] theorem State.takeSrcAddr_ccmReq (k : AddrKind) (v : Nat) (n : Nat) : (s.takeSrcAddr k v n).ccmReq = s.ccmReq := rfl
@[simp] theorem State.takeSrcAddr_state (k : AddrKind) (v : Nat) (n : Nat) : (s.takeSrcAddr k v n).state = s.state := rfl
@[simp] theorem State.takeSrcAddr_wrWhileBusy (k : AddrKind) (v : Nat) (n : Nat) : (s.takeSrcAddr k v n).wrWhileBusy = s.wrWhileBusy := rfl
@[simp] theorem State.takeSrcAddr_cmdWhileBusy (k : AddrKind) (v : Nat) (n : Nat) : (s.takeSrcAddr k v n).cmdWhileBusy = s.cmdWhileBusy := rfl
@[simp] theorem State.takeSrcAddr_badCmd (k : AddrKind) (v : Nat) (n : Nat) : (s.takeSrcAddr k v n).badCmd = s.badCmd := rfl
@[simp] theorem State.takeSrcAddr_busErr (k : AddrKind) (v : Nat) (n : Nat) : (s.takeSrcAddr k v n).busErr = s.busErr := rfl
@[simp] theorem State.takeSrcAddr_off (k : AddrKind) (v : Nat) (n : Nat) : (s.takeSrcAddr k v n).off = s.off + BitVec.ofNat 8 n := rfl
@[simp] theorem State.takeSrcAddr_ccmDone (k : AddrKind) (v : Nat) (n : Nat) : (s.takeSrcAddr k v n).ccmDone = s.ccmDone := rfl
@[simp] theorem State.takeSrcAddr_rdata (k : AddrKind) (v : Nat) (n : Nat) : (s.takeSrcAddr k v n).rdata = s.rdata := rfl
@[simp] theorem State.takeSrcAddr_turns (k : AddrKind) (v : Nat) (n : Nat) : (s.takeSrcAddr k v n).turns = s.turns := rfl
@[simp] theorem State.takeSrcAddr_res_outcome (k : AddrKind) (v : Nat) (n : Nat) : (s.takeSrcAddr k v n).res.outcome = s.res.outcome := rfl
@[simp] theorem State.takeSrcAddr_res_reason (k : AddrKind) (v : Nat) (n : Nat) : (s.takeSrcAddr k v n).res.reason = s.res.reason := rfl
@[simp] theorem State.takeSrcAddr_res_endOff (k : AddrKind) (v : Nat) (n : Nat) : (s.takeSrcAddr k v n).res.endOff = s.res.endOff := rfl
@[simp] theorem State.takeSrcAddr_res_fcRaw (k : AddrKind) (v : Nat) (n : Nat) : (s.takeSrcAddr k v n).res.fcRaw = s.res.fcRaw := rfl
@[simp] theorem State.takeSrcAddr_res_fcValid (k : AddrKind) (v : Nat) (n : Nat) : (s.takeSrcAddr k v n).res.fcValid = s.res.fcValid := rfl
@[simp] theorem State.takeSrcAddr_res_seq (k : AddrKind) (v : Nat) (n : Nat) : (s.takeSrcAddr k v n).res.seq = s.res.seq := rfl
@[simp] theorem State.takeSrcAddr_res_seqValid (k : AddrKind) (v : Nat) (n : Nat) : (s.takeSrcAddr k v n).res.seqValid = s.res.seqValid := rfl
@[simp] theorem State.takeSrcAddr_res_panId (k : AddrKind) (v : Nat) (n : Nat) : (s.takeSrcAddr k v n).res.panId = s.res.panId := rfl
@[simp] theorem State.takeSrcAddr_res_panValid (k : AddrKind) (v : Nat) (n : Nat) : (s.takeSrcAddr k v n).res.panValid = s.res.panValid := rfl
@[simp] theorem State.takeSrcAddr_res_bcast (k : AddrKind) (v : Nat) (n : Nat) : (s.takeSrcAddr k v n).res.bcast = s.res.bcast := rfl
@[simp] theorem State.takeSrcAddr_res_dstKind (k : AddrKind) (v : Nat) (n : Nat) : (s.takeSrcAddr k v n).res.dstKind = s.res.dstKind := rfl
@[simp] theorem State.takeSrcAddr_res_dstAddr (k : AddrKind) (v : Nat) (n : Nat) : (s.takeSrcAddr k v n).res.dstAddr = s.res.dstAddr := rfl
@[simp] theorem State.takeSrcAddr_res_srcKind (k : AddrKind) (v : Nat) (n : Nat) : (s.takeSrcAddr k v n).res.srcKind = k := rfl
@[simp] theorem State.takeSrcAddr_res_srcAddr (k : AddrKind) (v : Nat) (n : Nat) : (s.takeSrcAddr k v n).res.srcAddr = BitVec.ofNat 64 v := rfl
@[simp] theorem State.takeSrcAddr_res_hdrLen (k : AddrKind) (v : Nat) (n : Nat) : (s.takeSrcAddr k v n).res.hdrLen = s.res.hdrLen := rfl
@[simp] theorem State.takeSrcAddr_res_hdrValid (k : AddrKind) (v : Nat) (n : Nat) : (s.takeSrcAddr k v n).res.hdrValid = s.res.hdrValid := rfl
@[simp] theorem State.takeSrcAddr_res_payOff (k : AddrKind) (v : Nat) (n : Nat) : (s.takeSrcAddr k v n).res.payOff = s.res.payOff := rfl
@[simp] theorem State.takeSrcAddr_res_payLen (k : AddrKind) (v : Nat) (n : Nat) : (s.takeSrcAddr k v n).res.payLen = s.res.payLen := rfl
@[simp] theorem State.takeSrcAddr_res_ctLen (k : AddrKind) (v : Nat) (n : Nat) : (s.takeSrcAddr k v n).res.ctLen = s.res.ctLen := rfl
@[simp] theorem State.takeSrcAddr_res_adLen (k : AddrKind) (v : Nat) (n : Nat) : (s.takeSrcAddr k v n).res.adLen = s.res.adLen := rfl
@[simp] theorem State.takeSrcAddr_res_tagOff (k : AddrKind) (v : Nat) (n : Nat) : (s.takeSrcAddr k v n).res.tagOff = s.res.tagOff := rfl
@[simp] theorem State.takeSrcAddr_res_ctrOff (k : AddrKind) (v : Nat) (n : Nat) : (s.takeSrcAddr k v n).res.ctrOff = s.res.ctrOff := rfl
@[simp] theorem State.takeSrcAddr_res_frameCounter (k : AddrKind) (v : Nat) (n : Nat) : (s.takeSrcAddr k v n).res.frameCounter = s.res.frameCounter := rfl
@[simp] theorem State.takeSrcAddr_res_segValid (k : AddrKind) (v : Nat) (n : Nat) : (s.takeSrcAddr k v n).res.segValid = s.res.segValid := rfl
@[simp] theorem State.takeSrcAddr_res_nonce (k : AddrKind) (v : Nat) (n : Nat) : (s.takeSrcAddr k v n).res.nonce = s.res.nonce := rfl
@[simp] theorem State.takeSrcAddr_res_nonceValid (k : AddrKind) (v : Nat) (n : Nat) : (s.takeSrcAddr k v n).res.nonceValid = s.res.nonceValid := rfl

/-! takeHdrLen -/

@[simp] theorem State.takeHdrLen_frameBuf : (s.takeHdrLen).frameBuf = s.frameBuf := rfl
@[simp] theorem State.takeHdrLen_epoch : (s.takeHdrLen).epoch = s.epoch := rfl
@[simp] theorem State.takeHdrLen_frameLen : (s.takeHdrLen).frameLen = s.frameLen := rfl
@[simp] theorem State.takeHdrLen_cfgPan : (s.takeHdrLen).cfgPan = s.cfgPan := rfl
@[simp] theorem State.takeHdrLen_cfgPanWritten : (s.takeHdrLen).cfgPanWritten = s.cfgPanWritten := rfl
@[simp] theorem State.takeHdrLen_irqEn : (s.takeHdrLen).irqEn = s.irqEn := rfl
@[simp] theorem State.takeHdrLen_busy : (s.takeHdrLen).busy = s.busy := rfl
@[simp] theorem State.takeHdrLen_done : (s.takeHdrLen).done = s.done := rfl
@[simp] theorem State.takeHdrLen_ccmReq : (s.takeHdrLen).ccmReq = s.ccmReq := rfl
@[simp] theorem State.takeHdrLen_state : (s.takeHdrLen).state = s.state := rfl
@[simp] theorem State.takeHdrLen_wrWhileBusy : (s.takeHdrLen).wrWhileBusy = s.wrWhileBusy := rfl
@[simp] theorem State.takeHdrLen_cmdWhileBusy : (s.takeHdrLen).cmdWhileBusy = s.cmdWhileBusy := rfl
@[simp] theorem State.takeHdrLen_badCmd : (s.takeHdrLen).badCmd = s.badCmd := rfl
@[simp] theorem State.takeHdrLen_busErr : (s.takeHdrLen).busErr = s.busErr := rfl
@[simp] theorem State.takeHdrLen_off : (s.takeHdrLen).off = s.off := rfl
@[simp] theorem State.takeHdrLen_ccmDone : (s.takeHdrLen).ccmDone = s.ccmDone := rfl
@[simp] theorem State.takeHdrLen_rdata : (s.takeHdrLen).rdata = s.rdata := rfl
@[simp] theorem State.takeHdrLen_turns : (s.takeHdrLen).turns = s.turns := rfl
@[simp] theorem State.takeHdrLen_res_outcome : (s.takeHdrLen).res.outcome = s.res.outcome := rfl
@[simp] theorem State.takeHdrLen_res_reason : (s.takeHdrLen).res.reason = s.res.reason := rfl
@[simp] theorem State.takeHdrLen_res_endOff : (s.takeHdrLen).res.endOff = s.res.endOff := rfl
@[simp] theorem State.takeHdrLen_res_fcRaw : (s.takeHdrLen).res.fcRaw = s.res.fcRaw := rfl
@[simp] theorem State.takeHdrLen_res_fcValid : (s.takeHdrLen).res.fcValid = s.res.fcValid := rfl
@[simp] theorem State.takeHdrLen_res_seq : (s.takeHdrLen).res.seq = s.res.seq := rfl
@[simp] theorem State.takeHdrLen_res_seqValid : (s.takeHdrLen).res.seqValid = s.res.seqValid := rfl
@[simp] theorem State.takeHdrLen_res_panId : (s.takeHdrLen).res.panId = s.res.panId := rfl
@[simp] theorem State.takeHdrLen_res_panValid : (s.takeHdrLen).res.panValid = s.res.panValid := rfl
@[simp] theorem State.takeHdrLen_res_bcast : (s.takeHdrLen).res.bcast = s.res.bcast := rfl
@[simp] theorem State.takeHdrLen_res_dstKind : (s.takeHdrLen).res.dstKind = s.res.dstKind := rfl
@[simp] theorem State.takeHdrLen_res_dstAddr : (s.takeHdrLen).res.dstAddr = s.res.dstAddr := rfl
@[simp] theorem State.takeHdrLen_res_srcKind : (s.takeHdrLen).res.srcKind = s.res.srcKind := rfl
@[simp] theorem State.takeHdrLen_res_srcAddr : (s.takeHdrLen).res.srcAddr = s.res.srcAddr := rfl
@[simp] theorem State.takeHdrLen_res_hdrLen : (s.takeHdrLen).res.hdrLen = s.off := rfl
@[simp] theorem State.takeHdrLen_res_hdrValid : (s.takeHdrLen).res.hdrValid = true := rfl
@[simp] theorem State.takeHdrLen_res_payOff : (s.takeHdrLen).res.payOff = s.res.payOff := rfl
@[simp] theorem State.takeHdrLen_res_payLen : (s.takeHdrLen).res.payLen = s.res.payLen := rfl
@[simp] theorem State.takeHdrLen_res_ctLen : (s.takeHdrLen).res.ctLen = s.res.ctLen := rfl
@[simp] theorem State.takeHdrLen_res_adLen : (s.takeHdrLen).res.adLen = s.res.adLen := rfl
@[simp] theorem State.takeHdrLen_res_tagOff : (s.takeHdrLen).res.tagOff = s.res.tagOff := rfl
@[simp] theorem State.takeHdrLen_res_ctrOff : (s.takeHdrLen).res.ctrOff = s.res.ctrOff := rfl
@[simp] theorem State.takeHdrLen_res_frameCounter : (s.takeHdrLen).res.frameCounter = s.res.frameCounter := rfl
@[simp] theorem State.takeHdrLen_res_segValid : (s.takeHdrLen).res.segValid = s.res.segValid := rfl
@[simp] theorem State.takeHdrLen_res_nonce : (s.takeHdrLen).res.nonce = s.res.nonce := rfl
@[simp] theorem State.takeHdrLen_res_nonceValid : (s.takeHdrLen).res.nonceValid = s.res.nonceValid := rfl

/-! takePayload -/

@[simp] theorem State.takePayload_frameBuf : (s.takePayload).frameBuf = s.frameBuf := rfl
@[simp] theorem State.takePayload_epoch : (s.takePayload).epoch = s.epoch := rfl
@[simp] theorem State.takePayload_frameLen : (s.takePayload).frameLen = s.frameLen := rfl
@[simp] theorem State.takePayload_cfgPan : (s.takePayload).cfgPan = s.cfgPan := rfl
@[simp] theorem State.takePayload_cfgPanWritten : (s.takePayload).cfgPanWritten = s.cfgPanWritten := rfl
@[simp] theorem State.takePayload_irqEn : (s.takePayload).irqEn = s.irqEn := rfl
@[simp] theorem State.takePayload_busy : (s.takePayload).busy = s.busy := rfl
@[simp] theorem State.takePayload_done : (s.takePayload).done = s.done := rfl
@[simp] theorem State.takePayload_ccmReq : (s.takePayload).ccmReq = s.ccmReq := rfl
@[simp] theorem State.takePayload_state : (s.takePayload).state = s.state := rfl
@[simp] theorem State.takePayload_wrWhileBusy : (s.takePayload).wrWhileBusy = s.wrWhileBusy := rfl
@[simp] theorem State.takePayload_cmdWhileBusy : (s.takePayload).cmdWhileBusy = s.cmdWhileBusy := rfl
@[simp] theorem State.takePayload_badCmd : (s.takePayload).badCmd = s.badCmd := rfl
@[simp] theorem State.takePayload_busErr : (s.takePayload).busErr = s.busErr := rfl
@[simp] theorem State.takePayload_off : (s.takePayload).off = s.off := rfl
@[simp] theorem State.takePayload_ccmDone : (s.takePayload).ccmDone = s.ccmDone := rfl
@[simp] theorem State.takePayload_rdata : (s.takePayload).rdata = s.rdata := rfl
@[simp] theorem State.takePayload_turns : (s.takePayload).turns = s.turns := rfl
@[simp] theorem State.takePayload_res_outcome : (s.takePayload).res.outcome = s.res.outcome := rfl
@[simp] theorem State.takePayload_res_reason : (s.takePayload).res.reason = s.res.reason := rfl
@[simp] theorem State.takePayload_res_endOff : (s.takePayload).res.endOff = s.res.endOff := rfl
@[simp] theorem State.takePayload_res_fcRaw : (s.takePayload).res.fcRaw = s.res.fcRaw := rfl
@[simp] theorem State.takePayload_res_fcValid : (s.takePayload).res.fcValid = s.res.fcValid := rfl
@[simp] theorem State.takePayload_res_seq : (s.takePayload).res.seq = s.res.seq := rfl
@[simp] theorem State.takePayload_res_seqValid : (s.takePayload).res.seqValid = s.res.seqValid := rfl
@[simp] theorem State.takePayload_res_panId : (s.takePayload).res.panId = s.res.panId := rfl
@[simp] theorem State.takePayload_res_panValid : (s.takePayload).res.panValid = s.res.panValid := rfl
@[simp] theorem State.takePayload_res_bcast : (s.takePayload).res.bcast = s.res.bcast := rfl
@[simp] theorem State.takePayload_res_dstKind : (s.takePayload).res.dstKind = s.res.dstKind := rfl
@[simp] theorem State.takePayload_res_dstAddr : (s.takePayload).res.dstAddr = s.res.dstAddr := rfl
@[simp] theorem State.takePayload_res_srcKind : (s.takePayload).res.srcKind = s.res.srcKind := rfl
@[simp] theorem State.takePayload_res_srcAddr : (s.takePayload).res.srcAddr = s.res.srcAddr := rfl
@[simp] theorem State.takePayload_res_hdrLen : (s.takePayload).res.hdrLen = s.res.hdrLen := rfl
@[simp] theorem State.takePayload_res_hdrValid : (s.takePayload).res.hdrValid = s.res.hdrValid := rfl
@[simp] theorem State.takePayload_res_payOff : (s.takePayload).res.payOff = s.off := rfl
@[simp] theorem State.takePayload_res_payLen : (s.takePayload).res.payLen = BitVec.ofNat 8 (s.frameLen.toNat - 2 - s.off.toNat) := rfl
@[simp] theorem State.takePayload_res_ctLen : (s.takePayload).res.ctLen = s.res.ctLen := rfl
@[simp] theorem State.takePayload_res_adLen : (s.takePayload).res.adLen = s.off := rfl
@[simp] theorem State.takePayload_res_tagOff : (s.takePayload).res.tagOff = s.res.tagOff := rfl
@[simp] theorem State.takePayload_res_ctrOff : (s.takePayload).res.ctrOff = s.res.ctrOff := rfl
@[simp] theorem State.takePayload_res_frameCounter : (s.takePayload).res.frameCounter = s.res.frameCounter := rfl
@[simp] theorem State.takePayload_res_segValid : (s.takePayload).res.segValid = s.res.segValid := rfl
@[simp] theorem State.takePayload_res_nonce : (s.takePayload).res.nonce = s.res.nonce := rfl
@[simp] theorem State.takePayload_res_nonceValid : (s.takePayload).res.nonceValid = s.res.nonceValid := rfl

/-! takeSegments -/

@[simp] theorem State.takeSegments_frameBuf (c : Nat) : (s.takeSegments c).frameBuf = s.frameBuf := rfl
@[simp] theorem State.takeSegments_epoch (c : Nat) : (s.takeSegments c).epoch = s.epoch := rfl
@[simp] theorem State.takeSegments_frameLen (c : Nat) : (s.takeSegments c).frameLen = s.frameLen := rfl
@[simp] theorem State.takeSegments_cfgPan (c : Nat) : (s.takeSegments c).cfgPan = s.cfgPan := rfl
@[simp] theorem State.takeSegments_cfgPanWritten (c : Nat) : (s.takeSegments c).cfgPanWritten = s.cfgPanWritten := rfl
@[simp] theorem State.takeSegments_irqEn (c : Nat) : (s.takeSegments c).irqEn = s.irqEn := rfl
@[simp] theorem State.takeSegments_busy (c : Nat) : (s.takeSegments c).busy = s.busy := rfl
@[simp] theorem State.takeSegments_done (c : Nat) : (s.takeSegments c).done = s.done := rfl
@[simp] theorem State.takeSegments_ccmReq (c : Nat) : (s.takeSegments c).ccmReq = s.ccmReq := rfl
@[simp] theorem State.takeSegments_state (c : Nat) : (s.takeSegments c).state = s.state := rfl
@[simp] theorem State.takeSegments_wrWhileBusy (c : Nat) : (s.takeSegments c).wrWhileBusy = s.wrWhileBusy := rfl
@[simp] theorem State.takeSegments_cmdWhileBusy (c : Nat) : (s.takeSegments c).cmdWhileBusy = s.cmdWhileBusy := rfl
@[simp] theorem State.takeSegments_badCmd (c : Nat) : (s.takeSegments c).badCmd = s.badCmd := rfl
@[simp] theorem State.takeSegments_busErr (c : Nat) : (s.takeSegments c).busErr = s.busErr := rfl
@[simp] theorem State.takeSegments_off (c : Nat) : (s.takeSegments c).off = s.off := rfl
@[simp] theorem State.takeSegments_ccmDone (c : Nat) : (s.takeSegments c).ccmDone = s.ccmDone := rfl
@[simp] theorem State.takeSegments_rdata (c : Nat) : (s.takeSegments c).rdata = s.rdata := rfl
@[simp] theorem State.takeSegments_turns (c : Nat) : (s.takeSegments c).turns = s.turns := rfl
@[simp] theorem State.takeSegments_res_outcome (c : Nat) : (s.takeSegments c).res.outcome = s.res.outcome := rfl
@[simp] theorem State.takeSegments_res_reason (c : Nat) : (s.takeSegments c).res.reason = s.res.reason := rfl
@[simp] theorem State.takeSegments_res_endOff (c : Nat) : (s.takeSegments c).res.endOff = s.res.endOff := rfl
@[simp] theorem State.takeSegments_res_fcRaw (c : Nat) : (s.takeSegments c).res.fcRaw = s.res.fcRaw := rfl
@[simp] theorem State.takeSegments_res_fcValid (c : Nat) : (s.takeSegments c).res.fcValid = s.res.fcValid := rfl
@[simp] theorem State.takeSegments_res_seq (c : Nat) : (s.takeSegments c).res.seq = s.res.seq := rfl
@[simp] theorem State.takeSegments_res_seqValid (c : Nat) : (s.takeSegments c).res.seqValid = s.res.seqValid := rfl
@[simp] theorem State.takeSegments_res_panId (c : Nat) : (s.takeSegments c).res.panId = s.res.panId := rfl
@[simp] theorem State.takeSegments_res_panValid (c : Nat) : (s.takeSegments c).res.panValid = s.res.panValid := rfl
@[simp] theorem State.takeSegments_res_bcast (c : Nat) : (s.takeSegments c).res.bcast = s.res.bcast := rfl
@[simp] theorem State.takeSegments_res_dstKind (c : Nat) : (s.takeSegments c).res.dstKind = s.res.dstKind := rfl
@[simp] theorem State.takeSegments_res_dstAddr (c : Nat) : (s.takeSegments c).res.dstAddr = s.res.dstAddr := rfl
@[simp] theorem State.takeSegments_res_srcKind (c : Nat) : (s.takeSegments c).res.srcKind = s.res.srcKind := rfl
@[simp] theorem State.takeSegments_res_srcAddr (c : Nat) : (s.takeSegments c).res.srcAddr = s.res.srcAddr := rfl
@[simp] theorem State.takeSegments_res_hdrLen (c : Nat) : (s.takeSegments c).res.hdrLen = s.res.hdrLen := rfl
@[simp] theorem State.takeSegments_res_hdrValid (c : Nat) : (s.takeSegments c).res.hdrValid = s.res.hdrValid := rfl
@[simp] theorem State.takeSegments_res_payOff (c : Nat) : (s.takeSegments c).res.payOff = s.res.payOff := rfl
@[simp] theorem State.takeSegments_res_payLen (c : Nat) : (s.takeSegments c).res.payLen = s.res.payLen := rfl
@[simp] theorem State.takeSegments_res_ctLen (c : Nat) : (s.takeSegments c).res.ctLen = BitVec.ofNat 8 (s.res.payLen.toNat - 8) := rfl
@[simp] theorem State.takeSegments_res_adLen (c : Nat) : (s.takeSegments c).res.adLen = s.res.adLen := rfl
@[simp] theorem State.takeSegments_res_tagOff (c : Nat) : (s.takeSegments c).res.tagOff = BitVec.ofNat 8 s.res.tagAt := rfl
@[simp] theorem State.takeSegments_res_ctrOff (c : Nat) : (s.takeSegments c).res.ctrOff = BitVec.ofNat 8 s.res.ctrAt := rfl
@[simp] theorem State.takeSegments_res_frameCounter (c : Nat) : (s.takeSegments c).res.frameCounter = BitVec.ofNat 32 c := rfl
@[simp] theorem State.takeSegments_res_segValid (c : Nat) : (s.takeSegments c).res.segValid = true := rfl
@[simp] theorem State.takeSegments_res_nonce (c : Nat) : (s.takeSegments c).res.nonce = s.res.nonce := rfl
@[simp] theorem State.takeSegments_res_nonceValid (c : Nat) : (s.takeSegments c).res.nonceValid = s.res.nonceValid := rfl

/-! takeNonce -/

@[simp] theorem State.takeNonce_frameBuf : (s.takeNonce).frameBuf = s.frameBuf := rfl
@[simp] theorem State.takeNonce_epoch : (s.takeNonce).epoch = s.epoch := rfl
@[simp] theorem State.takeNonce_frameLen : (s.takeNonce).frameLen = s.frameLen := rfl
@[simp] theorem State.takeNonce_cfgPan : (s.takeNonce).cfgPan = s.cfgPan := rfl
@[simp] theorem State.takeNonce_cfgPanWritten : (s.takeNonce).cfgPanWritten = s.cfgPanWritten := rfl
@[simp] theorem State.takeNonce_irqEn : (s.takeNonce).irqEn = s.irqEn := rfl
@[simp] theorem State.takeNonce_busy : (s.takeNonce).busy = s.busy := rfl
@[simp] theorem State.takeNonce_done : (s.takeNonce).done = s.done := rfl
@[simp] theorem State.takeNonce_ccmReq : (s.takeNonce).ccmReq = s.ccmReq := rfl
@[simp] theorem State.takeNonce_state : (s.takeNonce).state = s.state := rfl
@[simp] theorem State.takeNonce_wrWhileBusy : (s.takeNonce).wrWhileBusy = s.wrWhileBusy := rfl
@[simp] theorem State.takeNonce_cmdWhileBusy : (s.takeNonce).cmdWhileBusy = s.cmdWhileBusy := rfl
@[simp] theorem State.takeNonce_badCmd : (s.takeNonce).badCmd = s.badCmd := rfl
@[simp] theorem State.takeNonce_busErr : (s.takeNonce).busErr = s.busErr := rfl
@[simp] theorem State.takeNonce_off : (s.takeNonce).off = s.off := rfl
@[simp] theorem State.takeNonce_ccmDone : (s.takeNonce).ccmDone = s.ccmDone := rfl
@[simp] theorem State.takeNonce_rdata : (s.takeNonce).rdata = s.rdata := rfl
@[simp] theorem State.takeNonce_turns : (s.takeNonce).turns = s.turns := rfl
@[simp] theorem State.takeNonce_res_outcome : (s.takeNonce).res.outcome = s.res.outcome := rfl
@[simp] theorem State.takeNonce_res_reason : (s.takeNonce).res.reason = s.res.reason := rfl
@[simp] theorem State.takeNonce_res_endOff : (s.takeNonce).res.endOff = s.res.endOff := rfl
@[simp] theorem State.takeNonce_res_fcRaw : (s.takeNonce).res.fcRaw = s.res.fcRaw := rfl
@[simp] theorem State.takeNonce_res_fcValid : (s.takeNonce).res.fcValid = s.res.fcValid := rfl
@[simp] theorem State.takeNonce_res_seq : (s.takeNonce).res.seq = s.res.seq := rfl
@[simp] theorem State.takeNonce_res_seqValid : (s.takeNonce).res.seqValid = s.res.seqValid := rfl
@[simp] theorem State.takeNonce_res_panId : (s.takeNonce).res.panId = s.res.panId := rfl
@[simp] theorem State.takeNonce_res_panValid : (s.takeNonce).res.panValid = s.res.panValid := rfl
@[simp] theorem State.takeNonce_res_bcast : (s.takeNonce).res.bcast = s.res.bcast := rfl
@[simp] theorem State.takeNonce_res_dstKind : (s.takeNonce).res.dstKind = s.res.dstKind := rfl
@[simp] theorem State.takeNonce_res_dstAddr : (s.takeNonce).res.dstAddr = s.res.dstAddr := rfl
@[simp] theorem State.takeNonce_res_srcKind : (s.takeNonce).res.srcKind = s.res.srcKind := rfl
@[simp] theorem State.takeNonce_res_srcAddr : (s.takeNonce).res.srcAddr = s.res.srcAddr := rfl
@[simp] theorem State.takeNonce_res_hdrLen : (s.takeNonce).res.hdrLen = s.res.hdrLen := rfl
@[simp] theorem State.takeNonce_res_hdrValid : (s.takeNonce).res.hdrValid = s.res.hdrValid := rfl
@[simp] theorem State.takeNonce_res_payOff : (s.takeNonce).res.payOff = s.res.payOff := rfl
@[simp] theorem State.takeNonce_res_payLen : (s.takeNonce).res.payLen = s.res.payLen := rfl
@[simp] theorem State.takeNonce_res_ctLen : (s.takeNonce).res.ctLen = s.res.ctLen := rfl
@[simp] theorem State.takeNonce_res_adLen : (s.takeNonce).res.adLen = s.res.adLen := rfl
@[simp] theorem State.takeNonce_res_tagOff : (s.takeNonce).res.tagOff = s.res.tagOff := rfl
@[simp] theorem State.takeNonce_res_ctrOff : (s.takeNonce).res.ctrOff = s.res.ctrOff := rfl
@[simp] theorem State.takeNonce_res_frameCounter : (s.takeNonce).res.frameCounter = s.res.frameCounter := rfl
@[simp] theorem State.takeNonce_res_segValid : (s.takeNonce).res.segValid = s.res.segValid := rfl
@[simp] theorem State.takeNonce_res_nonce : (s.takeNonce).res.nonce = buildNonce Config.nonceAddrOrder Config.noncePad s.counterBytes s.res.srcAddr := rfl
@[simp] theorem State.takeNonce_res_nonceValid : (s.takeNonce).res.nonceValid = true := rfl

end Sys2Proof.Machine
end

