-- ==== Sys2Proof/Laws/Memory.lean ====
section
/-! SUPPORT. The laws of FRAME_BUF: a read after a write, and the canonical form. -/

namespace Sys2Proof.Machine

theorem Memory.get?_set_same (m : List Host.Cell) (a : Nat) (b : Byte) :
    Memory.get? (Memory.set m a b) a = some b := by
  induction m with
  | nil => simp [Memory.set, Memory.get?]
  | cons c m ih =>
    obtain ⟨k, c⟩ := c
    simp only [Memory.set]
    split
    · simp [Memory.get?]
    · split
      · simp [Memory.get?]
      · next _ h => simp [Memory.get?, Ne.symm h, ih]

theorem Memory.get?_set_other (m : List Host.Cell) {a a' : Nat} (b : Byte) (h : a' ≠ a) :
    Memory.get? (Memory.set m a b) a' = Memory.get? m a' := by
  induction m with
  | nil => simp [Memory.set, Memory.get?, Ne.symm h]
  | cons c m ih =>
    obtain ⟨k, c⟩ := c
    simp only [Memory.set]
    split
    · simp [Memory.get?, Ne.symm h]
    · split
      · next _ e => subst e; simp [Memory.get?, Ne.symm h]
      · simp [Memory.get?, ih]

theorem Memory.wfFrom_set {m : List Host.Cell} {lo a : Nat} (b : Byte) (hm : Memory.wfFrom lo m = true)
    (hlo : lo ≤ a) (ha : a < Config.bufBytes) : Memory.wfFrom lo (Memory.set m a b) = true := by
  induction m generalizing lo with
  | nil => simp_all [Memory.set, Memory.wfFrom]
  | cons c m ih =>
    obtain ⟨k, c⟩ := c
    simp only [Memory.wfFrom, Bool.and_eq_true, decide_eq_true_eq] at hm
    simp only [Memory.set]
    split
    · next h => simp_all [Memory.wfFrom]
    · split
      · simp_all [Memory.wfFrom]
      · simp only [Memory.wfFrom, Bool.and_eq_true, decide_eq_true_eq]
        exact ⟨hm.1, ih hm.2 (by omega)⟩

/-- Below the first address the canonical form allows, nothing is listed. -/
theorem Memory.get?_below {m : List Host.Cell} {lo a : Nat} (hm : Memory.wfFrom lo m = true) (ha : a < lo) :
    Memory.get? m a = none := by
  induction m generalizing lo with
  | nil => rfl
  | cons c m ih =>
    obtain ⟨k, c⟩ := c
    simp only [Memory.wfFrom, Bool.and_eq_true, decide_eq_true_eq] at hm
    have : k ≠ a := by omega
    simp [Memory.get?, this, ih hm.2 (by omega)]

/-- Memories in canonical form that hold the same bytes are the same data. -/
theorem Memory.wfFrom_ext {m m' : List Host.Cell} {lo : Nat} (hm : Memory.wfFrom lo m = true)
    (hm' : Memory.wfFrom lo m' = true) (h : ∀ a, Memory.get? m a = Memory.get? m' a) : m = m' := by
  induction m generalizing lo m' with
  | nil =>
    cases m' with
    | nil => rfl
    | cons c m' => have := h c.1; simp [Memory.get?] at this
  | cons c m ih =>
    obtain ⟨k, c⟩ := c
    cases m' with
    | nil => have := h k; simp [Memory.get?] at this
    | cons c' m' =>
      obtain ⟨k', c'⟩ := c'
      simp only [Memory.wfFrom, Bool.and_eq_true, decide_eq_true_eq] at hm hm'
      have hk := h k
      have hk' := h k'
      rcases Nat.lt_trichotomy k k' with hlt | heq | hgt
      · have hz : Memory.get? m' k = none := Memory.get?_below hm'.2 (by omega)
        have : k' ≠ k := by omega
        simp [Memory.get?, this, hz] at hk
      · subst heq
        simp only [Memory.get?, ↓reduceIte, Option.some.injEq] at hk
        subst hk
        refine congrArg _ (ih hm.2 hm'.2 fun a => ?_)
        by_cases ha : a < k + 1
        · rw [Memory.get?_below hm.2 ha, Memory.get?_below hm'.2 ha]
        · have := h a
          have hne : k ≠ a := by omega
          simpa [Memory.get?, hne] using this
      · have hz : Memory.get? m k' = none := Memory.get?_below hm.2 (by omega)
        have : k ≠ k' := by omega
        simp [Memory.get?, this, hz] at hk'

theorem Memory.wf_set {m : List Host.Cell} {a : Nat} (b : Byte) (hm : Memory.wf m = true) (ha : a < 256) :
    Memory.wf (Memory.set m a b) = true := Memory.wfFrom_set b hm (Nat.zero_le a) ha

theorem State.writeByte_wf {s : State} {a : Nat} (b : Byte) (hm : Memory.wf s.frameBuf = true) (ha : a < 256) :
    Memory.wf (s.writeByte a b).frameBuf = true := Memory.wf_set b hm ha

theorem State.writeWord_wf {s : State} {a : Nat} (v : Word) (hm : Memory.wf s.frameBuf = true) (ha : a + 3 < 256) :
    Memory.wf (s.writeWord a v).frameBuf = true := by
  unfold State.writeWord
  exact Memory.wf_set _ (Memory.wf_set _ (Memory.wf_set _ (Memory.wf_set _ hm (by omega)) (by omega)) (by omega)) ha

theorem State.reset_wf : Memory.wf State.reset.frameBuf = true := rfl

@[simp] theorem State.frameByte_writeByte_same (s : State) (a : Nat) (b : Byte) :
    (s.writeByte a b).frameByte a = b := by
  simp [State.frameByte, Memory.get?_set_same]

theorem State.frameByte_writeByte_other (s : State) {a a' : Nat} (b : Byte) (h : a' ≠ a) :
    (s.writeByte a b).frameByte a' = s.frameByte a' := by
  simp [State.frameByte, Memory.get?_set_other _ _ h]

/-- The bytes a state reads depend on FRAME_BUF and on which reset its unwritten bytes belong to only. -/
theorem State.frameByte_congr {s t : State} (hb : t.frameBuf = s.frameBuf) (he : t.epoch = s.epoch) (a : Nat) :
    t.frameByte a = s.frameByte a := by simp [State.frameByte, hb, he]

theorem State.readLe_of_bytes {s t : State} {a n : Nat} (h : ∀ i, a ≤ i → i < a + n → t.frameByte i = s.frameByte i) :
    t.readLe a n = s.readLe a n := by
  induction n generalizing a with
  | zero => rfl
  | succ n ih =>
    simp only [State.readLe]
    rw [h a (by omega) (by omega), ih fun i h1 h2 => h i (by omega) (by omega)]

theorem State.readLe_congr {s t : State} (hb : t.frameBuf = s.frameBuf) (he : t.epoch = s.epoch) (a n : Nat) :
    t.readLe a n = s.readLe a n := State.readLe_of_bytes fun i _ _ => State.frameByte_congr hb he i

theorem State.readLe_lt (s : State) (a n : Nat) : s.readLe a n < 256 ^ n := by
  induction n generalizing a with
  | zero => simp [State.readLe]
  | succ n ih =>
    simp only [State.readLe, Nat.pow_succ]
    have := (s.frameByte a).isLt
    have := ih (a + 1)
    omega

@[simp] theorem State.readLe_one (s : State) (a : Nat) : s.readLe a 1 = (s.frameByte a).toNat := by simp [State.readLe]

/-- A two-byte field as the word its bytes make (20_memory.md R40). -/
theorem State.readLe_two (s : State) (a : Nat) :
    BitVec.ofNat 16 (s.readLe a 2) = s.frameByte (a + 1) ++ s.frameByte a := by
  apply BitVec.eq_of_toNat_eq
  simp only [State.readLe, BitVec.toNat_append, BitVec.toNat_ofNat]
  rw [← Nat.shiftLeft_add_eq_or_of_lt (s.frameByte a).isLt, Nat.shiftLeft_eq]
  omega

/-- A four-byte field as the word its bytes make (20_memory.md R44). -/
theorem State.readLe_four (s : State) (a : Nat) :
    BitVec.ofNat 32 (s.readLe a 4) =
      s.frameByte (a + 3) ++ s.frameByte (a + 2) ++ s.frameByte (a + 1) ++ s.frameByte a := by
  apply BitVec.eq_of_toNat_eq
  rw [BitVec.toNat_append, BitVec.toNat_append, BitVec.toNat_append, BitVec.toNat_ofNat,
    ← Nat.shiftLeft_add_eq_or_of_lt (s.frameByte a).isLt, ← Nat.shiftLeft_add_eq_or_of_lt (s.frameByte (a + 1)).isLt,
    ← Nat.shiftLeft_add_eq_or_of_lt (s.frameByte (a + 2)).isLt]
  simp only [Nat.shiftLeft_eq, State.readLe, Nat.add_assoc, Nat.reduceAdd]
  omega

@[simp] theorem State.writeWord_frameLen (s : State) (a : Nat) (v : Word) : (s.writeWord a v).frameLen = s.frameLen := rfl
@[simp] theorem State.writeWord_epoch (s : State) (a : Nat) (v : Word) : (s.writeWord a v).epoch = s.epoch := rfl
@[simp] theorem State.writeWord_cfgPan (s : State) (a : Nat) (v : Word) : (s.writeWord a v).cfgPan = s.cfgPan := rfl
@[simp] theorem State.writeWord_cfgPanWritten (s : State) (a : Nat) (v : Word) : (s.writeWord a v).cfgPanWritten = s.cfgPanWritten := rfl
@[simp] theorem State.writeWord_irqEn (s : State) (a : Nat) (v : Word) : (s.writeWord a v).irqEn = s.irqEn := rfl
@[simp] theorem State.writeWord_busy (s : State) (a : Nat) (v : Word) : (s.writeWord a v).busy = s.busy := rfl
@[simp] theorem State.writeWord_done (s : State) (a : Nat) (v : Word) : (s.writeWord a v).done = s.done := rfl
@[simp] theorem State.writeWord_ccmReq (s : State) (a : Nat) (v : Word) : (s.writeWord a v).ccmReq = s.ccmReq := rfl
@[simp] theorem State.writeWord_state (s : State) (a : Nat) (v : Word) : (s.writeWord a v).state = s.state := rfl
@[simp] theorem State.writeWord_off (s : State) (a : Nat) (v : Word) : (s.writeWord a v).off = s.off := rfl
@[simp] theorem State.writeWord_res (s : State) (a : Nat) (v : Word) : (s.writeWord a v).res = s.res := rfl
@[simp] theorem State.writeWord_ccmDone (s : State) (a : Nat) (v : Word) : (s.writeWord a v).ccmDone = s.ccmDone := rfl
@[simp] theorem State.writeWord_rdata (s : State) (a : Nat) (v : Word) : (s.writeWord a v).rdata = s.rdata := rfl
@[simp] theorem State.writeWord_turns (s : State) (a : Nat) (v : Word) : (s.writeWord a v).turns = s.turns := rfl

end Sys2Proof.Machine
end

