-- ==== Sys2Proof/Laws/Ops.lean ====
section
/-! SUPPORT. Each shared operation once: everything it can answer. -/

namespace Sys2Proof.Machine

/-- `need` ends the parse with its code, or goes on with the bytes inside the frame (00_scope.md R8). -/
theorem need_cases (s : State) (n : Nat) (code : BitVec 8) (k : Answer) :
    (s.frameLen.toNat < s.off.toNat + n ∧ need s n code k = .next (s.finish .structuralError code)) ∨
    (s.off.toNat + n ≤ s.frameLen.toNat ∧ need s n code k = k) := by
  unfold need raiseStructural
  split
  · exact .inl ⟨by omega, rfl⟩
  · exact .inr ⟨by omega, rfl⟩

theorem need_short {s : State} {n : Nat} (code : BitVec 8) (k : Answer) (h : s.frameLen.toNat < s.off.toNat + n) :
    need s n code k = .next (s.finish .structuralError code) := by
  unfold need raiseStructural; exact if_pos h

theorem need_enough {s : State} {n : Nat} (code : BitVec 8) (k : Answer) (h : s.off.toNat + n ≤ s.frameLen.toNat) :
    need s n code k = k := by
  unfold need; exact if_neg (by omega)

/-- An FSM read inside the frame gives the little-endian value of its bytes. -/
theorem fsmRead_inside {s : State} {a n : Nat} (k : Nat → Answer) (h : a + n ≤ s.frameLen.toNat) :
    fsmRead s a n k = k (s.readLe a n) := by unfold fsmRead; exact if_pos h

theorem fsmRead_outside {s : State} {a n : Nat} (k : Nat → Answer) (h : s.frameLen.toNat < a + n) :
    fsmRead s a n k = .fault (.readBeyondFrame a n) := by unfold fsmRead; exact if_neg (by omega)

/-- The read of a field at OFF after `need` never leaves the frame (20_memory.md R48). -/
theorem need_then_read (s : State) (n : Nat) (code : BitVec 8) (k : Nat → Answer) :
    need s n code (fsmRead s s.off.toNat n k) =
      if s.frameLen.toNat < s.off.toNat + n then .next (s.finish .structuralError code) else k (s.readLe s.off.toNat n) := by
  rcases need_cases s n code (fsmRead s s.off.toNat n k) with ⟨h, e⟩ | ⟨h, e⟩
  · rw [e, if_pos h]
  · rw [e, if_neg (by omega), fsmRead_inside k h]

/-- OFF moves without wrapping while it stays inside the frame (20_memory.md R49). -/
theorem State.advance_off_toNat {s : State} {n : Nat} (h : s.off.toNat + n ≤ s.frameLen.toNat) :
    (s.advance n).off.toNat = s.off.toNat + n := by
  have := s.frameLen.isLt
  simp only [State.advance_off, BitVec.toNat_add, BitVec.toNat_ofNat]
  omega

/-- A refused access changes BUS_ERR and, for a read, the value returned (20_memory.md R47). -/
theorem State.refuse_eq (s : State) (write : Bool) :
    s.refuse write = { s with busErr := true, rdata := if write then s.rdata else 0#32 } := by
  cases write <;> rfl

/-- The engine's answer outside S_CCM_WAIT changes nothing (44_segment_nonce.md R177). -/
theorem State.answerCcm_ignored {s : State} (authOk : Bool) (h : s.state ≠ FsmCode.ccmWait) :
    s.answerCcm authOk = s := by unfold State.answerCcm; exact if_pos h

/-- The engine's answer in S_CCM_WAIT ends the parse (44_segment_nonce.md R177). -/
theorem State.answerCcm_taken {s : State} (authOk : Bool) (h : s.state = FsmCode.ccmWait) :
    s.answerCcm authOk =
      (s.setCcmReq false).finish (if authOk then .okData else .authError)
        (if authOk then Reason.none else Reason.authTagMismatch) := by
  unfold State.answerCcm; rw [if_neg (by simpa using h)]; cases authOk <;> rfl

/-- S_FC runs the row its word is decoded to (41_frame_control.md R110, R116). -/
theorem runFrameControl_eq (fc : BitVec 16) (s : State) : runFrameControl fc s = exec (decodeFc fc) s := by
  unfold runFrameControl decodeFc FcClass.row
  cases classifyFc fc <;> rfl

/-- No row of S_FC stops: every word is captured and the parse goes on or ends. -/
theorem runFrameControl_next (fc : BitVec 16) (s : State) : ∃ t, runFrameControl fc s = .next t := by
  unfold runFrameControl
  split <;> exact ⟨_, rfl⟩

/-- The destination PAN (42_addressing.md R132). -/
theorem readDstPan_eq (s : State) (k : State → Answer) :
    readDstPan s k =
      if s.frameLen.toNat < s.off.toNat + 2 then .next (s.finish .structuralError Reason.truncDstPan)
      else k (s.takeDstPan (s.readLe s.off.toNat 2)) := need_then_read s 2 _ _

/-- The destination address (42_addressing.md R133). -/
theorem readDstAddr_eq (s : State) (kind : AddrKind) (n : Nat) (k : State → Answer) :
    readDstAddr s kind n k =
      if s.frameLen.toNat < s.off.toNat + n then .next (s.finish .structuralError Reason.truncDstAddr)
      else k (s.takeDstAddr kind (s.readLe s.off.toNat n) n) := need_then_read s n _ _

/-- The source address and the header length (42_addressing.md R137, R141). -/
theorem readSrcAddr_eq (s : State) (kind : AddrKind) (n : Nat) :
    readSrcAddr s kind n =
      if s.frameLen.toNat < s.off.toNat + n then .next (s.finish .structuralError Reason.truncSrcAddr)
      else .next ((s.takeSrcAddr kind (s.readLe s.off.toNat n) n).takeHdrLen.goto FsmCode.bound) :=
  need_then_read s n _ _

/-- What the block's turn is (10_state.md R30). -/
theorem planBlock_run {s : State} {i : Instr} (hi : decode (.fsm4 s.state) = .ok i) (hb : s.busy = true) :
    planBlock s = .run i s := by
  unfold planBlock; rw [hi]; exact if_pos hb

theorem planBlock_settle {s : State} {i : Instr} (hi : decode (.fsm4 s.state) = .ok i) (hb : s.busy = false) :
    planBlock s = .settle s := by
  unfold planBlock; rw [hi]; exact if_neg (by simp [hb])

/-- The next transition when no turn is listed (log entry 14). -/
theorem plan_nil {s : State} {i : Instr} (hi : decode (.fsm4 s.state) = .ok i) (ht : s.turns = []) :
    plan s = planBlock s := by simp only [plan, hi, ht]

/-- The next transition by the head of the turns (log entry 1). -/
theorem plan_cons {s : State} {i : Instr} {t : Turn} {rest : List Turn} (hi : decode (.fsm4 s.state) = .ok i)
    (ht : s.turns = t :: rest) : plan s = planTurn t (s.setTurns rest) := by simp only [plan, hi, ht]

end Sys2Proof.Machine
end

