-- ==== Sys2Proof/Laws/PerInstr.lean ====
section
/-! SUPPORT. Per-instruction laws, one lemma per constructor: the words `encode` writes for a well-formed instruction are
read back as that instruction. -/

namespace Sys2Proof.Laws.DecodeEncode

/-- The decoder reads an instruction's own words back as that instruction. -/
def Statement (i : Instr) : Prop := i.wellFormed = true → decode (encode i) = .ok i

theorem nop : Statement .nop :=
  fun _ => rfl

theorem parse : Statement .parse :=
  fun _ => rfl

theorem clear : Statement .clear :=
  fun _ => rfl

theorem sIdle : Statement .sIdle :=
  fun _ => rfl

theorem sFc : Statement .sFc :=
  fun _ => rfl

theorem sAck : Statement .sAck :=
  fun _ => rfl

theorem sSeq : Statement .sSeq :=
  fun _ => rfl

theorem sDst : Statement .sDst :=
  fun _ => rfl

theorem sSrcPan : Statement .sSrcPan :=
  fun _ => rfl

theorem sSrc : Statement .sSrc :=
  fun _ => rfl

theorem sBound : Statement .sBound :=
  fun _ => rfl

theorem sFilter : Statement .sFilter :=
  fun _ => rfl

theorem sSegment : Statement .sSegment :=
  fun _ => rfl

theorem sNonce : Statement .sNonce :=
  fun _ => rfl

theorem sCcmWait : Statement .sCcmWait :=
  fun _ => rfl

theorem sDone : Statement .sDone :=
  fun _ => rfl

theorem cmdUndefined (code : Word) : Statement (.cmdUndefined code) := by
  intro h
  simp only [Instr.wellFormed, Bool.and_eq_true, bne_iff_ne, ne_eq] at h
  simp [encode, decode, decodeCmd, classifyCmd, h.1.1, h.1.2, h.2]

theorem wrCmd (value : Word) : Statement (.wrCmd value) :=
  fun _ => rfl

theorem refusedMisalignedBit0 (write : Bool) (offset : BitVec 9) : Statement (.refusedMisalignedBit0 write offset) := by
  intro h
  have h0 : offset.getLsbD 0 = true := h
  have hc : tdOf write true offset ≠ 0x70C#11 := by
    rw [Ne, tdOf_eq_cmd]; rintro ⟨-, -, rfl⟩; exact absurd h0 (by decide)
  simp only [encode, decode, decodeTd]
  rw [tdOf_write, tdOf_wide, tdOf_bit _ _ _ (show 0 < 9 by omega), tdOf_offset, if_neg hc, h0]
  rfl

theorem refusedMisalignedBit1 (write : Bool) (offset : BitVec 9) : Statement (.refusedMisalignedBit1 write offset) := by
  intro h
  simp only [Instr.wellFormed, Bool.and_eq_true, Bool.not_eq_true'] at h
  have hc : tdOf write true offset ≠ 0x70C#11 := by
    rw [Ne, tdOf_eq_cmd]; rintro ⟨-, -, rfl⟩; exact absurd h.2 (by decide)
  simp only [encode, decode, decodeTd]
  rw [tdOf_write, tdOf_wide, tdOf_bit _ _ _ (show 0 < 9 by omega), tdOf_bit _ _ _ (show 1 < 9 by omega), tdOf_offset,
    if_neg hc, h.1, h.2]
  rfl

theorem refusedByteReg (write : Bool) (offset : BitVec 9) : Statement (.refusedByteReg write offset) := by
  intro h
  have h8 : offset.getLsbD 8 = true := h
  have hc : tdOf write false offset ≠ 0x70C#11 := by rw [Ne, tdOf_eq_cmd]; rintro ⟨-, h, -⟩; cases h
  simp only [encode, decode, decodeTd]
  rw [tdOf_write, tdOf_wide, tdOf_bit _ _ _ (show 8 < 9 by omega), tdOf_offset, if_neg hc, h8]
  rfl

theorem setWidth9_bit8 (o : BitVec 8) : (o.setWidth 9).getLsbD 8 = false := by
  rw [BitVec.getLsbD_setWidth, BitVec.getLsbD_of_ge _ _ (Nat.le_refl 8)]; rfl

theorem rd8 (offset : BitVec 8) : Statement (.rd8 offset) := by
  intro _
  have hc : tdOf false false (offset.setWidth 9) ≠ 0x70C#11 := by rw [Ne, tdOf_eq_cmd]; rintro ⟨h, -, -⟩; cases h
  simp only [encode, decode, decodeTd]
  rw [tdOf_write, tdOf_wide, tdOf_bit _ _ _ (show 8 < 9 by omega), tdOf_low, if_neg hc, setWidth9_bit8]
  rfl

theorem wr8 (offset : BitVec 8) (value : Word) : Statement (.wr8 offset value) := by
  intro _
  have hc : tdOf true false (offset.setWidth 9) ≠ 0x70C#11 := by rw [Ne, tdOf_eq_cmd]; rintro ⟨-, h, -⟩; cases h
  simp only [encode, decode, decodeTd]
  rw [tdOf_write, tdOf_wide, tdOf_bit _ _ _ (show 8 < 9 by omega), tdOf_low, if_neg hc, setWidth9_bit8]
  rfl

theorem rd32Buf (offset : BitVec 8) : Statement (.rd32Buf offset) := by
  intro h
  obtain ⟨h0, h1⟩ := aligned_bits offset h
  have e0 : (offset.setWidth 9).getLsbD 0 = false := by simpa [BitVec.getLsbD_setWidth] using h0
  have e1 : (offset.setWidth 9).getLsbD 1 = false := by simpa [BitVec.getLsbD_setWidth] using h1
  have hc : tdOf false true (offset.setWidth 9) ≠ 0x70C#11 := by
    rw [Ne, tdOf_eq_cmd]; rintro ⟨-, -, h⟩
    exact absurd (congrArg (fun x => x.getLsbD 8) h) (by rw [setWidth9_bit8]; decide)
  simp only [encode, decode, decodeTd]
  rw [tdOf_write, tdOf_wide, tdOf_bit _ _ _ (show 0 < 9 by omega), tdOf_bit _ _ _ (show 1 < 9 by omega),
    tdOf_bit _ _ _ (show 8 < 9 by omega), tdOf_low, if_neg hc, setWidth9_bit8, e0, e1]
  rfl

theorem wr32Buf (offset : BitVec 8) (value : Word) : Statement (.wr32Buf offset value) := by
  intro h
  obtain ⟨h0, h1⟩ := aligned_bits offset h
  have e0 : (offset.setWidth 9).getLsbD 0 = false := by simpa [BitVec.getLsbD_setWidth] using h0
  have e1 : (offset.setWidth 9).getLsbD 1 = false := by simpa [BitVec.getLsbD_setWidth] using h1
  have hc : tdOf true true (offset.setWidth 9) ≠ 0x70C#11 := by
    rw [Ne, tdOf_eq_cmd]; rintro ⟨-, -, h⟩
    exact absurd (congrArg (fun x => x.getLsbD 8) h) (by rw [setWidth9_bit8]; decide)
  simp only [encode, decode, decodeTd]
  rw [tdOf_write, tdOf_wide, tdOf_bit _ _ _ (show 0 < 9 by omega), tdOf_bit _ _ _ (show 1 < 9 by omega),
    tdOf_bit _ _ _ (show 8 < 9 by omega), tdOf_low, if_neg hc, setWidth9_bit8, e0, e1]
  rfl

theorem rd32Reg (offset : BitVec 9) : Statement (.rd32Reg offset) := by
  intro h
  simp only [Instr.wellFormed, Bool.and_eq_true] at h
  obtain ⟨e0, e1⟩ := aligned_bits offset h.2
  have h8 : offset.getLsbD 8 = true := h.1
  have hc : tdOf false true offset ≠ 0x70C#11 := by rw [Ne, tdOf_eq_cmd]; rintro ⟨h, -, -⟩; cases h
  simp only [encode, decode, decodeTd]
  rw [tdOf_write, tdOf_wide, tdOf_bit _ _ _ (show 0 < 9 by omega), tdOf_bit _ _ _ (show 1 < 9 by omega),
    tdOf_bit _ _ _ (show 8 < 9 by omega), tdOf_offset, if_neg hc, h8, e0, e1]
  rfl

theorem wr32Reg (offset : BitVec 9) (value : Word) : Statement (.wr32Reg offset value) := by
  intro h
  simp only [Instr.wellFormed, Bool.and_eq_true, bne_iff_ne, ne_eq] at h
  obtain ⟨e0, e1⟩ := aligned_bits offset h.1.2
  have h8 : offset.getLsbD 8 = true := h.1.1
  have hc : tdOf true true offset ≠ 0x70C#11 := by rw [Ne, tdOf_eq_cmd]; rintro ⟨-, -, h'⟩; exact h.2 h'
  simp only [encode, decode, decodeTd]
  rw [tdOf_write, tdOf_wide, tdOf_bit _ _ _ (show 0 < 9 by omega), tdOf_bit _ _ _ (show 1 < 9 by omega),
    tdOf_bit _ _ _ (show 8 < 9 by omega), tdOf_offset, if_neg hc, h8, e0, e1]
  rfl

/-- The decoder of a frame-control word whose class is known. -/
theorem decodeFc_of_class {fc : BitVec 16} {c : FcClass} (h : classifyFc fc = c) :
    decode (.fc16 fc) = .ok (c.row fc) := by subst h; rfl

/-- A rejection's well-formedness: the checks before it pass, and its own bits hold. -/
theorem passes_and {fc : BitVec 16} {n hi lo v : Nat} (h : (fcPasses fc n && fcHas fc hi lo v) = true) :
    fcPasses fc n = true ∧ fcHas fc hi lo v = true := by simpa only [Bool.and_eq_true] using h

theorem rejReservedBit (fc : BitVec 16) : Statement (.rejReservedBit fc) :=
  fun h => decodeFc_of_class (classifyFc_rsv ((fcHas_RSV fc).1 h))

theorem rejSeqSuppression (fc : BitVec 16) : Statement (.rejSeqSuppression fc) := by
  intro h
  obtain ⟨hp, hb⟩ := passes_and h
  have p := (fcPasses_iff fc 1).1 hp
  exact decodeFc_of_class (classifyFc_sns (p.1 (by omega)) ((fcHas_SNS fc).1 hb))

theorem rejIePresent (fc : BitVec 16) : Statement (.rejIePresent fc) := by
  intro h
  obtain ⟨hp, hb⟩ := passes_and h
  have p := (fcPasses_iff fc 2).1 hp
  exact decodeFc_of_class (classifyFc_iep (p.1 (by omega)) (p.2.1 (by omega)) ((fcHas_IEP fc).1 hb))

theorem rejVersion1 (fc : BitVec 16) : Statement (.rejVersion1 fc) := by
  intro h
  obtain ⟨hp, hb⟩ := passes_and h
  have p := (fcPasses_iff fc 3).1 hp
  exact decodeFc_of_class
    ((classifyFc_version (p.1 (by omega)) (p.2.1 (by omega)) (p.2.2.1 (by omega))).1 ((fcHas_FV fc 1#2).1 hb))

theorem rejVersion2 (fc : BitVec 16) : Statement (.rejVersion2 fc) := by
  intro h
  obtain ⟨hp, hb⟩ := passes_and h
  have p := (fcPasses_iff fc 3).1 hp
  exact decodeFc_of_class
    ((classifyFc_version (p.1 (by omega)) (p.2.1 (by omega)) (p.2.2.1 (by omega))).2.1 ((fcHas_FV fc 2#2).1 hb))

theorem rejVersion3 (fc : BitVec 16) : Statement (.rejVersion3 fc) := by
  intro h
  obtain ⟨hp, hb⟩ := passes_and h
  have p := (fcPasses_iff fc 3).1 hp
  exact decodeFc_of_class
    ((classifyFc_version (p.1 (by omega)) (p.2.1 (by omega)) (p.2.2.1 (by omega))).2.2 ((fcHas_FV fc 3#2).1 hb))

theorem rejDstModeReserved (fc : BitVec 16) : Statement (.rejDstModeReserved fc) := by
  intro h
  obtain ⟨hp, hb⟩ := passes_and h
  have p := (fcPasses_iff fc 4).1 hp
  exact decodeFc_of_class (classifyFc_dam (p.1 (by omega)) (p.2.1 (by omega)) (p.2.2.1 (by omega))
    (p.2.2.2.1 (by omega)) ((fcHas_DAM fc 1#2).1 hb))

theorem rejSrcModeReserved (fc : BitVec 16) : Statement (.rejSrcModeReserved fc) := by
  intro h
  obtain ⟨hp, hb⟩ := passes_and h
  have p := (fcPasses_iff fc 5).1 hp
  exact decodeFc_of_class (classifyFc_sam (p.1 (by omega)) (p.2.1 (by omega)) (p.2.2.1 (by omega))
    (p.2.2.2.1 (by omega)) (p.2.2.2.2.1 (by omega)) ((fcHas_SAM fc 1#2).1 hb))

/-- A word that passes every check is read by its frame type. -/
theorem classifyFc_of_passes {fc : BitVec 16} {v : BitVec 3} (h : fcPasses fc 6 = true) (hv : fcFT fc = v) :
    classifyFc fc = ftClass v := by
  have p := (fcPasses_iff fc 6).1 h
  rw [← hv]
  exact classifyFc_accepted (p.1 (by omega)) (p.2.1 (by omega)) (p.2.2.1 (by omega)) (p.2.2.2.1 (by omega))
    (p.2.2.2.2.1 (by omega)) (p.2.2.2.2.2 (by omega))

theorem ftBeacon (fc : BitVec 16) : Statement (.ftBeacon fc) := by
  intro h
  obtain ⟨hp, hb⟩ := passes_and h
  exact decodeFc_of_class (classifyFc_of_passes hp ((fcHas_FT fc 0#3).1 hb))

theorem ftData (fc : BitVec 16) : Statement (.ftData fc) := by
  intro h
  obtain ⟨hp, hb⟩ := passes_and h
  exact decodeFc_of_class (classifyFc_of_passes hp ((fcHas_FT fc 1#3).1 hb))

theorem ftAck (fc : BitVec 16) : Statement (.ftAck fc) := by
  intro h
  obtain ⟨hp, hb⟩ := passes_and h
  exact decodeFc_of_class (classifyFc_of_passes hp ((fcHas_FT fc 2#3).1 hb))

theorem ftMacCommand (fc : BitVec 16) : Statement (.ftMacCommand fc) := by
  intro h
  obtain ⟨hp, hb⟩ := passes_and h
  exact decodeFc_of_class (classifyFc_of_passes hp ((fcHas_FT fc 3#3).1 hb))

theorem ftReserved (fc : BitVec 16) : Statement (.ftReserved fc) := by
  intro h
  obtain ⟨hp, hb⟩ := passes_and h
  exact decodeFc_of_class (classifyFc_of_passes hp ((fcHas_FT fc 4#3).1 hb))

theorem ftMultipurpose (fc : BitVec 16) : Statement (.ftMultipurpose fc) := by
  intro h
  obtain ⟨hp, hb⟩ := passes_and h
  exact decodeFc_of_class (classifyFc_of_passes hp ((fcHas_FT fc 5#3).1 hb))

theorem ftFragment (fc : BitVec 16) : Statement (.ftFragment fc) := by
  intro h
  obtain ⟨hp, hb⟩ := passes_and h
  exact decodeFc_of_class (classifyFc_of_passes hp ((fcHas_FT fc 6#3).1 hb))

theorem ftExtended (fc : BitVec 16) : Statement (.ftExtended fc) := by
  intro h
  obtain ⟨hp, hb⟩ := passes_and h
  exact decodeFc_of_class (classifyFc_of_passes hp ((fcHas_FT fc 7#3).1 hb))

theorem damNone (fc : BitVec 16) : Statement (.damNone fc) := by
  intro h
  simp only [encode, decode, decodeDst, (fcHas_DAM fc 0#2).1 h]
  rfl

theorem damShort (fc : BitVec 16) : Statement (.damShort fc) := by
  intro h
  simp only [encode, decode, decodeDst, (fcHas_DAM fc 2#2).1 h]
  rfl

theorem damLong (fc : BitVec 16) : Statement (.damLong fc) := by
  intro h
  simp only [encode, decode, decodeDst, (fcHas_DAM fc 3#2).1 h]
  rfl

theorem samNone (fc : BitVec 16) : Statement (.samNone fc) := by
  intro h
  simp only [encode, decode, decodeSrc, (fcHas_SAM fc 0#2).1 h]
  rfl

theorem samShort (fc : BitVec 16) : Statement (.samShort fc) := by
  intro h
  simp only [encode, decode, decodeSrc, (fcHas_SAM fc 2#2).1 h]
  rfl

theorem samLong (fc : BitVec 16) : Statement (.samLong fc) := by
  intro h
  simp only [encode, decode, decodeSrc, (fcHas_SAM fc 3#2).1 h]
  rfl

end Sys2Proof.Laws.DecodeEncode
end

