-- ==== Sys2Proof/Laws/Safety.lean ====
section
/-! SUPPORT. What the launch premise and the measure of a parse say of one turn. -/

namespace Sys2Proof.Machine

/-- A state with its own turns put back is that state. -/
theorem State.setTurns_self {s : State} {ts : List Turn} (h : s.turns = ts) : s.setTurns ts = s := by
  subst h; rfl

/-- With no turn left, every request raised has been answered (70_reset_and_hazards.md R234). -/
theorem engineAnswersOnce_nil {owed : Nat} {s : State} (h : engineAnswersOnce [] owed s = true) : owed = 0 := by
  simpa [engineAnswersOnce] using h

/-- One turn of the engine's duty: it answers only what is owed, and a rise of CCM_REQ is owed (60_exceptions.md R213). -/
theorem engineAnswersOnce_next {t : Turn} {rest : List Turn} {owed : Nat} {s s' : State} (ht : s.turns = t :: rest)
    (hs : step s = .next s') :
    engineAnswersOnce (t :: rest) owed s = true ↔
      (t.isEngine = true → 0 < owed) ∧
        engineAnswersOnce rest (owed + (!s.ccmReq && s'.ccmReq).toNat - t.isEngine.toNat) s' = true := by
  simp only [engineAnswersOnce, State.setTurns_self ht, hs, Bool.and_eq_true]
  refine and_congr_left fun _ => ?_
  cases t.isEngine <;> simp

/-- A parse has at most nine steps left (30_encoding.md R74). -/
theorem stepsLeft_le (code : BitVec 4) : stepsLeft code ≤ 9 := by revert code; decide

/-- A legal state of the FSM has no step left exactly at rest and in S_CCM_WAIT (10_state.md R30). -/
theorem stepsLeft_eq_zero {code : BitVec 4} (h : stateLegal code = true) :
    stepsLeft code = 0 ↔ code = FsmCode.idle ∨ code = FsmCode.done ∨ code = FsmCode.ccmWait := by
  revert code; decide

end Sys2Proof.Machine
end

