-- ==== Sys2Proof/Tests/Slice0.lean ====
section
/-! SUPPORT. Tests: ill-formed terms refused, every constructor's word decoded, one step of each instruction on a small
state, and a witness for the premises of every statement. Words are written out from 30_encoding.md and
spec/opcode_table.json; expected results are those of 95_test_vectors.md, or follow from the rule named. -/

namespace Sys2Proof.Tests

open Sys2Proof.Machine

/-! ## Well-formedness: each check refuses an ill-formed term -/

theorem smoke_cmdUndefined_nop : Instr.wellFormed (.cmdUndefined 0x00000000#32) = false := by decide
theorem smoke_cmdUndefined_parse : Instr.wellFormed (.cmdUndefined 0x00000001#32) = false := by decide
theorem smoke_cmdUndefined_clear : Instr.wellFormed (.cmdUndefined 0x00000002#32) = false := by decide
theorem smoke_misaligned0 : Instr.wellFormed (.refusedMisalignedBit0 true 0x102#9) = false := by decide
theorem smoke_misaligned1_bit0 : Instr.wellFormed (.refusedMisalignedBit1 true 0x103#9) = false := by decide
theorem smoke_misaligned1_aligned : Instr.wellFormed (.refusedMisalignedBit1 true 0x104#9) = false := by decide
theorem smoke_byteReg : Instr.wellFormed (.refusedByteReg false 0x0FF#9) = false := by decide
theorem smoke_rd32Buf : Instr.wellFormed (.rd32Buf 0x02#8) = false := by decide
theorem smoke_wr32Buf : Instr.wellFormed (.wr32Buf 0x01#8 0#32) = false := by decide
theorem smoke_rd32Reg_buffer : Instr.wellFormed (.rd32Reg 0x0FC#9) = false := by decide
theorem smoke_rd32Reg_misaligned : Instr.wellFormed (.rd32Reg 0x102#9) = false := by decide
theorem smoke_wr32Reg_buffer : Instr.wellFormed (.wr32Reg 0x0FC#9 0#32) = false := by decide
theorem smoke_wr32Reg_misaligned : Instr.wellFormed (.wr32Reg 0x101#9 0#32) = false := by decide
theorem smoke_wr32Reg_cmd : Instr.wellFormed (.wr32Reg 0x10C#9 0#32) = false := by decide
theorem smoke_rejReservedBit : Instr.wellFormed (.rejReservedBit 0x8861#16) = false := by decide
theorem smoke_rejSeqSuppression_earlier : Instr.wellFormed (.rejSeqSuppression 0x0181#16) = false := by decide
theorem smoke_rejSeqSuppression : Instr.wellFormed (.rejSeqSuppression 0x8861#16) = false := by decide
theorem smoke_rejIePresent_earlier : Instr.wellFormed (.rejIePresent 0x0301#16) = false := by decide
theorem smoke_rejIePresent : Instr.wellFormed (.rejIePresent 0x8861#16) = false := by decide
theorem smoke_rejVersion1_earlier : Instr.wellFormed (.rejVersion1 0x1201#16) = false := by decide
theorem smoke_rejVersion1 : Instr.wellFormed (.rejVersion1 0x2001#16) = false := by decide
theorem smoke_rejVersion2 : Instr.wellFormed (.rejVersion2 0x3001#16) = false := by decide
theorem smoke_rejVersion3 : Instr.wellFormed (.rejVersion3 0x1001#16) = false := by decide
theorem smoke_rejDstModeReserved_earlier : Instr.wellFormed (.rejDstModeReserved 0x1401#16) = false := by decide
theorem smoke_rejDstModeReserved : Instr.wellFormed (.rejDstModeReserved 0x0801#16) = false := by decide
theorem smoke_rejSrcModeReserved_earlier : Instr.wellFormed (.rejSrcModeReserved 0x4401#16) = false := by decide
theorem smoke_rejSrcModeReserved : Instr.wellFormed (.rejSrcModeReserved 0x8001#16) = false := by decide
theorem smoke_ftBeacon_earlier : Instr.wellFormed (.ftBeacon 0x4000#16) = false := by decide
theorem smoke_ftBeacon : Instr.wellFormed (.ftBeacon 0x0001#16) = false := by decide
theorem smoke_ftData : Instr.wellFormed (.ftData 0x0002#16) = false := by decide
theorem smoke_ftAck : Instr.wellFormed (.ftAck 0x0003#16) = false := by decide
theorem smoke_ftMacCommand : Instr.wellFormed (.ftMacCommand 0x0004#16) = false := by decide
theorem smoke_ftReserved : Instr.wellFormed (.ftReserved 0x0005#16) = false := by decide
theorem smoke_ftMultipurpose : Instr.wellFormed (.ftMultipurpose 0x0006#16) = false := by decide
theorem smoke_ftFragment : Instr.wellFormed (.ftFragment 0x0007#16) = false := by decide
theorem smoke_ftExtended : Instr.wellFormed (.ftExtended 0x0000#16) = false := by decide
theorem smoke_damNone : Instr.wellFormed (.damNone 0x0801#16) = false := by decide
theorem smoke_damShort : Instr.wellFormed (.damShort 0x0C01#16) = false := by decide
theorem smoke_damLong : Instr.wellFormed (.damLong 0x0401#16) = false := by decide
theorem smoke_samNone : Instr.wellFormed (.samNone 0x8001#16) = false := by decide
theorem smoke_samShort : Instr.wellFormed (.samShort 0xC001#16) = false := by decide
theorem smoke_samLong : Instr.wellFormed (.samLong 0x4001#16) = false := by decide

/-! ## Decoding: a word of every constructor -/

theorem decode_nop : decode (.cmd32 0x00000000#32) = .ok (.nop) := rfl
theorem decode_parse : decode (.cmd32 0x00000001#32) = .ok (.parse) := rfl
theorem decode_clear : decode (.cmd32 0x00000002#32) = .ok (.clear) := rfl
theorem decode_cmdUndefined : decode (.cmd32 0x80000001#32) = .ok (.cmdUndefined 0x80000001#32) := rfl
theorem decode_wrCmd : decode (.td11 0b11100001100#11 0x00000002#32) = .ok (.wrCmd 0x00000002#32) := rfl
theorem decode_refusedMisalignedBit0 : decode (.td11 0b01100000001#11 0#32) = .ok (.refusedMisalignedBit0 false 0x101#9) := rfl
theorem decode_refusedMisalignedBit1 : decode (.td11 0b11000000010#11 5#32) = .ok (.refusedMisalignedBit1 true 0x002#9) := rfl
theorem decode_refusedByteReg : decode (.td11 0b10100000100#11 0x47#32) = .ok (.refusedByteReg true 0x104#9) := rfl
theorem decode_rd8 : decode (.td11 0b00000010001#11 0#32) = .ok (.rd8 0x11#8) := rfl
theorem decode_wr8 : decode (.td11 0b10000010001#11 0#32) = .ok (.wr8 0x11#8 0#32) := rfl
theorem decode_rd32Buf : decode (.td11 0b01000000100#11 0#32) = .ok (.rd32Buf 0x04#8) := rfl
theorem decode_wr32Buf : decode (.td11 0b11011111100#11 0x47018861#32) = .ok (.wr32Buf 0xFC#8 0x47018861#32) := rfl
theorem decode_rd32Reg : decode (.td11 0b01100010000#11 0#32) = .ok (.rd32Reg 0x110#9) := rfl
theorem decode_wr32Reg : decode (.td11 0b11100000100#11 0x4447#32) = .ok (.wr32Reg 0x104#9 0x4447#32) := rfl
theorem decode_sIdle : decode (.fsm4 0b0000#4) = .ok .sIdle := rfl
theorem decode_sFc : decode (.fsm4 0b0001#4) = .ok .sFc := rfl
theorem decode_sAck : decode (.fsm4 0b0010#4) = .ok .sAck := rfl
theorem decode_sSeq : decode (.fsm4 0b0011#4) = .ok .sSeq := rfl
theorem decode_sDst : decode (.fsm4 0b0100#4) = .ok .sDst := rfl
theorem decode_sSrcPan : decode (.fsm4 0b0101#4) = .ok .sSrcPan := rfl
theorem decode_sSrc : decode (.fsm4 0b0110#4) = .ok .sSrc := rfl
theorem decode_sBound : decode (.fsm4 0b0111#4) = .ok .sBound := rfl
theorem decode_sFilter : decode (.fsm4 0b1000#4) = .ok .sFilter := rfl
theorem decode_sSegment : decode (.fsm4 0b1001#4) = .ok .sSegment := rfl
theorem decode_sNonce : decode (.fsm4 0b1010#4) = .ok .sNonce := rfl
theorem decode_sCcmWait : decode (.fsm4 0b1011#4) = .ok .sCcmWait := rfl
theorem decode_sDone : decode (.fsm4 0b1111#4) = .ok .sDone := rfl
theorem decode_rejReservedBit : decode (.fc16 0b1100100010000001#16) = .ok (.rejReservedBit 0b1100100010000001#16) := by decide
theorem decode_rejSeqSuppression : decode (.fc16 0b1100100100000001#16) = .ok (.rejSeqSuppression 0b1100100100000001#16) := by decide
theorem decode_rejIePresent : decode (.fc16 0b1100101000000001#16) = .ok (.rejIePresent 0b1100101000000001#16) := by decide
theorem decode_rejVersion1 : decode (.fc16 0b1101100000000001#16) = .ok (.rejVersion1 0b1101100000000001#16) := by decide
theorem decode_rejVersion2 : decode (.fc16 0b1110100000000001#16) = .ok (.rejVersion2 0b1110100000000001#16) := by decide
theorem decode_rejVersion3 : decode (.fc16 0b1111100000000001#16) = .ok (.rejVersion3 0b1111100000000001#16) := by decide
theorem decode_rejDstModeReserved : decode (.fc16 0b0100010000000001#16) = .ok (.rejDstModeReserved 0b0100010000000001#16) := by decide
theorem decode_rejSrcModeReserved : decode (.fc16 0b0100100000000001#16) = .ok (.rejSrcModeReserved 0b0100100000000001#16) := by decide
theorem decode_ftBeacon : decode (.fc16 0b0000000000000000#16) = .ok (.ftBeacon 0b0000000000000000#16) := by decide
theorem decode_ftData : decode (.fc16 0b1000100001100001#16) = .ok (.ftData 0b1000100001100001#16) := by decide
theorem decode_ftAck : decode (.fc16 0b0000110000000010#16) = .ok (.ftAck 0b0000110000000010#16) := by decide
theorem decode_ftMacCommand : decode (.fc16 0b0000000000000011#16) = .ok (.ftMacCommand 0b0000000000000011#16) := by decide
theorem decode_ftReserved : decode (.fc16 0b0000000000000100#16) = .ok (.ftReserved 0b0000000000000100#16) := by decide
theorem decode_ftMultipurpose : decode (.fc16 0b0000000000000101#16) = .ok (.ftMultipurpose 0b0000000000000101#16) := by decide
theorem decode_ftFragment : decode (.fc16 0b0000000000000110#16) = .ok (.ftFragment 0b0000000000000110#16) := by decide
theorem decode_ftExtended : decode (.fc16 0b0000000000000111#16) = .ok (.ftExtended 0b0000000000000111#16) := by decide
theorem decode_damNone : decode (.dst16 0b1100000000000001#16) = .ok (.damNone 0b1100000000000001#16) := by decide
theorem decode_damShort : decode (.dst16 0b1100100000000001#16) = .ok (.damShort 0b1100100000000001#16) := by decide
theorem decode_damLong : decode (.dst16 0b1100110000000001#16) = .ok (.damLong 0b1100110000000001#16) := by decide
theorem decode_samNone : decode (.src16 0b0000100000000001#16) = .ok (.samNone 0b0000100000000001#16) := by decide
theorem decode_samShort : decode (.src16 0b1000100000000001#16) = .ok (.samShort 0b1000100000000001#16) := by decide
theorem decode_samLong : decode (.src16 0b1100100000000001#16) = .ok (.samLong 0b1100100000000001#16) := by decide

/-- 95_test_vectors.md E1: wire bytes 61 88 are the word 0x8861. -/
theorem decode_bytes_fc : decodeBytes .fc16 [0x61#8, 0x88#8, 0x07#8] = .ok (.ftData 0x8861#16, [0x07#8]) := by decide
/-- 95_test_vectors.md P1: TD 0x704 with value 0x4447. -/
theorem decode_bytes_td :
    decodeBytes .td11 [0x04#8, 0x07#8, 0x47#8, 0x44#8, 0x00#8, 0x00#8] = .ok (.wr32Reg 0x104#9 0x4447#32, []) := by decide
/-- The descriptor has 11 bits. -/
theorem decode_bytes_above : decodeBytes .td11 [0x04#8, 0x0F#8] = .error .bitsAboveTheWord := by decide
theorem decode_bytes_few : decodeBytes .cmd32 [0x01#8] = .error .tooFewBytes := by decide
theorem decode_mode1 : decode (.dst16 0x0400#16) = .error .reservedMode := by decide
theorem decode_table_bits : decodeTableWord 16 0x8861 = some (.ftData 0x8861#16) := by decide
theorem decode_table_td : decodeTableWord 16 0x70C = some (.wrCmd 0#32) := by decide
theorem decode_table_fsm : decodeTableWord 8 0xA = some .sNonce := by decide

/-! ## One step on a small state -/

/-- A field of the next state, if there is one. -/
def after {α : Type} (o : Answer) (f : State → α) : Option α :=
  match o with
  | .next s => some (f s)
  | .fault _ => none
  | .refused _ => none

/-- The frame of program P2 (95_test_vectors.md section 9): broadcast, source PAN 0x4447, long source, 11 payload bytes. -/
def frameP2 : List Host.Cell :=
  [(0, 0x01#8), (1, 0xC8#8), (2, 0x05#8), (3, 0xFF#8), (4, 0xFF#8), (5, 0xFF#8), (6, 0xFF#8), (7, 0x47#8),
   (8, 0x44#8), (9, 0x04#8), (10, 0x03#8), (11, 0x02#8), (12, 0x01#8), (13, 0x00#8), (14, 0x8D#8)] ++
  [(15, 0x15#8), (16, 0x00#8), (17, 0xAA#8), (18, 0xBB#8), (19, 0xCC#8), (20, 0x11#8), (21, 0x22#8), (22, 0x33#8),
   (23, 0x44#8), (24, 0x78#8), (25, 0x56#8), (26, 0x34#8), (27, 0x12#8), (28, 0x00#8), (29, 0x00#8)]

/-- P2's frame loaded, with CFG_PAN as set there. -/
def loaded : State := { State.reset with frameBuf := frameP2, frameLen := 30#8, cfgPan := 0x4447#16, cfgPanWritten := true }

/-- A parse of P2's frame in a state of the FSM. -/
def parsing (code : BitVec 4) (off : BitVec 8) (r : Results) : State :=
  { loaded with busy := true, state := code, off := off, res := r, ccmReq := code == FsmCode.ccmWait }

/-- P2's results as each state of the FSM leaves them. -/
def afterFc : Results := { Results.reset with fcRaw := 0xC801#16, fcValid := true }
def afterSeq : Results := { afterFc with seq := 0x05#8, seqValid := true }
def afterDst : Results :=
  { afterSeq with
    panId := 0xFFFF#16, panValid := true, dstKind := .short, dstAddr := 0xFFFFFFFFFFFFFFFF#64, bcast := true }
def afterSrcPan : Results := { afterDst with panId := 0x4447#16 }
def afterSrc : Results :=
  { afterSrcPan with srcKind := .long, srcAddr := 0x00158D0001020304#64, hdrLen := 17#8, hdrValid := true }
def afterBound : Results := { afterSrc with payOff := 17#8, adLen := 17#8, payLen := 11#8 }
def afterSegment : Results :=
  { afterBound with
    ctLen := 3#8, tagOff := 20#8, ctrOff := 24#8, frameCounter := 0x12345678#32, segValid := true }

def atFc : State := parsing FsmCode.fc 0#8 Results.reset
def atSeq : State := parsing FsmCode.seq 2#8 afterFc
def atDst : State := parsing FsmCode.dst 3#8 afterSeq
def atSrcPan : State := parsing FsmCode.srcPan 7#8 afterDst
def atSrc : State := parsing FsmCode.src 9#8 afterSrcPan
def atBound : State := parsing FsmCode.bound 17#8 afterSrc
def atFilter : State := parsing FsmCode.filter 17#8 afterBound
def atSegment : State := parsing FsmCode.segment 17#8 afterBound
def atNonce : State := parsing FsmCode.nonce 17#8 afterSegment
def atWait : State :=
  parsing FsmCode.ccmWait 17#8
    { afterSegment with
      nonce := buildNonce Config.nonceAddrOrder Config.noncePad atNonce.counterBytes 0x00158D0001020304#64
      nonceValid := true }
/-- P2 after `EV CCM_DONE 1`. -/
def atDone : State :=
  { atWait with
    busy := false, done := true, ccmReq := false, state := FsmCode.done
    res := { atWait.res with outcome := .okData, endOff := 17#8 } }

/-- 95_test_vectors.md H8. -/
theorem test_nop : after (exec .nop atWait) State.statusWord = some 0x000B0005#32 := by decide
/-- X6: every result is back at its reset value before the first step. -/
theorem test_parse : after (exec .parse atDone) (fun s => (s.statusWord, s.res)) =
    some (0x00010001#32, Results.reset) := by decide
/-- H13. -/
theorem test_parse_busy : after (exec .parse atWait) State.statusWord = some 0x002B0005#32 := by decide
/-- H15, C4: CLEAR aborts and keeps the inputs. -/
theorem test_clear : after (exec .clear atWait) (fun s => (s.statusWord, s.res, s.frameLen, s.cfgPan)) =
    some (0#32, Results.reset, 30#8, 0x4447#16) := by decide
/-- H9. -/
theorem test_cmdUndefined : after (exec (.cmdUndefined 0x80000001#32) State.reset) State.statusWord =
    some 0x00400000#32 := by decide
/-- H10: the whole value is compared. -/
theorem test_wrCmd_undefined : after (exec (.wrCmd 0x3#32) State.reset) State.statusWord = some 0x00400000#32 := by decide
theorem test_wrCmd_parse : after (exec (.wrCmd 0x1#32) loaded) State.statusWord = some 0x00010001#32 := by decide
/-- H4. -/
theorem test_refusedMisalignedBit1 : after (exec (.refusedMisalignedBit1 false 0x102#9) { atDone with rdata := 7#32 })
    (fun s => (s.busErr, s.rdata)) = some (true, 0#32) := by decide
theorem test_refusedMisalignedBit0 : after (exec (.refusedMisalignedBit0 true 0x101#9) { loaded with rdata := 7#32 })
    (fun s => (s.busErr, s.rdata, s.frameLen)) = some (true, 7#32, 30#8) := by decide
/-- H5. -/
theorem test_refusedByteReg : after (exec (.refusedByteReg true 0x104#9) loaded)
    (fun s => (s.busErr, s.cfgPan)) = some (true, 0x4447#16) := by decide
/-- P2: the dropped write did not land. -/
theorem test_rd8 : after (exec (.rd8 0x11#8) loaded) State.rdata = some 0x000000AA#32 := by decide
/-- H3, byte 3 of a buffer word, at the top of the buffer. -/
theorem test_wr8 : after (exec (.wr8 0xFF#8 0x1247#32) loaded) (fun s => s.frameByte 255) = some 0x47#8 := by decide
/-- H11. -/
theorem test_wr8_busy : after (exec (.wr8 0x11#8 0#32) atWait) (fun s => (s.statusWord, s.frameByte 17)) =
    some (0x001B0005#32, 0xAA#8) := by decide
/-- H3: little-endian. -/
theorem test_rd32Buf : after (exec (.rd32Buf 0x00#8) loaded) State.rdata = some 0xFF05C801#32 := by decide
theorem test_wr32Buf : after (exec (.wr32Buf 0x00#8 0x47018861#32) State.reset) (fun s => (s.frameByte 0, s.frameByte 3)) =
    some (0x61#8, 0x47#8) := by decide
theorem test_wr32Buf_busy : after (exec (.wr32Buf 0xFC#8 1#32) atWait) (fun s => (s.wrWhileBusy, s.frameBuf)) =
    some (true, frameP2) := by decide
/-- C1: STATUS of P2. -/
theorem test_rd32Reg_status : after (exec (.rd32Reg 0x110#9) atDone) State.rdata = some 0x110F0012#32 := by decide
/-- P2: HDRINFO. -/
theorem test_rd32Reg_hdrinfo : after (exec (.rd32Reg 0x118#9) atDone) State.rdata = some 0x0711EF05#32 := by decide
/-- H2: bits above 7 are dropped. -/
theorem test_wr32Reg_frameLen : after (exec (.wr32Reg 0x100#9 0x1FF#32) State.reset) State.frameLen = some 0xFF#8 := by decide
/-- H14: CTRL is writable while busy. -/
theorem test_wr32Reg_ctrl_busy : after (exec (.wr32Reg 0x108#9 1#32) atWait) State.irqEn = some true := by decide
/-- 10_state.md R30. -/
theorem test_sIdle : after (exec .sIdle loaded) State.statusWord = some 0#32 := by decide
theorem test_sDone : after (exec .sDone atDone) State.statusWord = some 0x110F0012#32 := by decide
/-- F2. -/
theorem test_sFc : after (exec .sFc atFc) (fun s => (s.state, s.off, s.res)) = some (3#4, 2#8, afterFc) := by decide
/-- F26. -/
theorem test_sFc_short : after (exec .sFc { atFc with frameLen := 1#8 }) State.statusWord = some 0x000F0142#32 := by decide
/-- F28: an acknowledgment of two bytes. -/
theorem test_sAck_short : after (exec .sAck { parsing FsmCode.ack 2#8 afterFc with frameLen := 2#8 }) State.statusWord =
    some 0x020F0022#32 := by decide
/-- F29 with P2's third byte. -/
theorem test_sAck : after (exec .sAck (parsing FsmCode.ack 2#8 afterFc)) (fun s => (s.statusWord, s.res.hdrInfoWord)) =
    some (0x030F0022#32, 0x00000905#32) := by decide
theorem test_sSeq : after (exec .sSeq atSeq) (fun s => (s.state, s.off, s.res)) = some (4#4, 3#8, afterSeq) := by decide
/-- F27. -/
theorem test_sSeq_short : after (exec .sSeq { atSeq with frameLen := 2#8 }) State.statusWord = some 0x020F0842#32 := by decide
/-- A9, A17: a broadcast destination. -/
theorem test_sDst : after (exec .sDst atDst) (fun s => (s.state, s.off, s.res)) = some (5#4, 7#8, afterDst) := by decide
/-- The truncation sweep at L = 6: the PAN is kept. -/
theorem test_sDst_short : after (exec .sDst { atDst with frameLen := 6#8 }) (fun s => (s.statusWord, s.res.panIdWord)) =
    some (0x050F0A42#32, 0x0000FFFF#32) := by decide
theorem test_sSrcPan : after (exec .sSrcPan atSrcPan) (fun s => (s.state, s.off, s.res)) =
    some (6#4, 9#8, afterSrcPan) := by decide
/-- The truncation sweep at L = 8. -/
theorem test_sSrcPan_short : after (exec .sSrcPan { atSrcPan with frameLen := 8#8 }) State.statusWord =
    some 0x070F0B42#32 := by decide
theorem test_sSrc : after (exec .sSrc atSrc) (fun s => (s.state, s.off, s.res)) = some (7#4, 17#8, afterSrc) := by decide
/-- The truncation sweep at L = 16. -/
theorem test_sSrc_short : after (exec .sSrc { atSrc with frameLen := 16#8 }) State.statusWord = some 0x090F0C42#32 := by decide
theorem test_sBound : after (exec .sBound atBound) (fun s => (s.state, s.res)) = some (8#4, afterBound) := by decide
/-- The truncation sweep at L = 18. -/
theorem test_sBound_short : after (exec .sBound { atBound with frameLen := 18#8 }) State.statusWord =
    some 0x110F0D42#32 := by decide
theorem test_sFilter : after (exec .sFilter atFilter) State.state = some 9#4 := by decide
/-- P-4: a foreign PAN. -/
theorem test_sFilter_foreign : after (exec .sFilter { atFilter with cfgPan := 0x1234#16 }) State.statusWord =
    some 0x110F1052#32 := by decide
theorem test_sSegment : after (exec .sSegment atSegment) (fun s => (s.state, s.res)) = some (10#4, afterSegment) := by decide
/-- The truncation sweep at L = 26: seven payload bytes. -/
theorem test_sSegment_short : after (exec .sSegment { atSegment with res := { afterBound with payLen := 7#8 } })
    State.statusWord = some 0x110F0E42#32 := by decide
/-- P2: the request is raised; the nonce's counter bytes do not depend on the OPEN parameters. -/
theorem test_sNonce : after (exec .sNonce atNonce) (fun s => (s.statusWord, s.res.nonce[0], s.res.nonce[3])) =
    some (0x000B0005#32, 0x78#8, 0x12#8) := by decide
/-- N9: a source that is not extended. -/
theorem test_sNonce_short : after (exec .sNonce { atNonce with res := { afterSegment with srcKind := .short } })
    (fun s => (s.statusWord, s.res.nonceValid)) = some (0x110F0F42#32, false) := by decide
/-- C1, C2. -/
theorem test_sCcmWait : after (exec .sCcmWait { atWait with ccmDone := some true }) State.statusWord =
    some 0x110F0012#32 := by decide
theorem test_sCcmWait_mismatch : after (exec .sCcmWait { atWait with ccmDone := some false }) State.statusWord =
    some 0x110F2062#32 := by decide

/-- F4. -/
theorem test_rejReservedBit : after (exec (.rejReservedBit 0xC881#16) atFc) (fun s => (s.statusWord, s.res.fcWord)) =
    some (0x020F0242#32, 0x0000C881#32) := by decide
/-- F5. -/
theorem test_rejSeqSuppression : after (exec (.rejSeqSuppression 0xC901#16) atFc) (fun s => (s.statusWord, s.res.fcWord)) =
    some (0x020F0342#32, 0x0000C901#32) := by decide
/-- F6. -/
theorem test_rejIePresent : after (exec (.rejIePresent 0xCA01#16) atFc) (fun s => (s.statusWord, s.res.fcWord)) =
    some (0x020F0442#32, 0x0000CA01#32) := by decide
/-- F7a. -/
theorem test_rejVersion1 : after (exec (.rejVersion1 0xD801#16) atFc) (fun s => (s.statusWord, s.res.fcWord)) =
    some (0x020F0542#32, 0x0000D801#32) := by decide
/-- F7b. -/
theorem test_rejVersion2 : after (exec (.rejVersion2 0xE801#16) atFc) (fun s => (s.statusWord, s.res.fcWord)) =
    some (0x020F0542#32, 0x0000E801#32) := by decide
/-- F7c. -/
theorem test_rejVersion3 : after (exec (.rejVersion3 0xF801#16) atFc) (fun s => (s.statusWord, s.res.fcWord)) =
    some (0x020F0542#32, 0x0000F801#32) := by decide
/-- F8. -/
theorem test_rejDstModeReserved : after (exec (.rejDstModeReserved 0x8401#16) atFc) (fun s => (s.statusWord, s.res.fcWord)) =
    some (0x020F0642#32, 0x00008401#32) := by decide
/-- F9. -/
theorem test_rejSrcModeReserved : after (exec (.rejSrcModeReserved 0x4801#16) atFc) (fun s => (s.statusWord, s.res.fcWord)) =
    some (0x020F0742#32, 0x00004801#32) := by decide
/-- F14. -/
theorem test_ftBeacon : after (exec (.ftBeacon 0x0000#16) atFc) (fun s => (s.statusWord, s.res.fcWord)) =
    some (0x020F0032#32, 0x00000000#32) := by decide
/-- F15. -/
theorem test_ftMacCommand : after (exec (.ftMacCommand 0x0003#16) atFc) (fun s => (s.statusWord, s.res.fcWord)) =
    some (0x020F0332#32, 0x00000003#32) := by decide
/-- F16. -/
theorem test_ftReserved : after (exec (.ftReserved 0x0004#16) atFc) (fun s => (s.statusWord, s.res.fcWord)) =
    some (0x020F0432#32, 0x00000004#32) := by decide
/-- F17. -/
theorem test_ftMultipurpose : after (exec (.ftMultipurpose 0x0005#16) atFc) (fun s => (s.statusWord, s.res.fcWord)) =
    some (0x020F0532#32, 0x00000005#32) := by decide
/-- F18. -/
theorem test_ftFragment : after (exec (.ftFragment 0x0006#16) atFc) (fun s => (s.statusWord, s.res.fcWord)) =
    some (0x020F0632#32, 0x00000006#32) := by decide
/-- F19. -/
theorem test_ftExtended : after (exec (.ftExtended 0x0007#16) atFc) (fun s => (s.statusWord, s.res.fcWord)) =
    some (0x020F0732#32, 0x00000007#32) := by decide
/-- F1, F22. -/
theorem test_ftData : after (exec (.ftData 0x8861#16) atFc) (fun s => (s.state, s.off)) = some (3#4, 2#8) := by decide
theorem test_ftAck : after (exec (.ftAck 0x0C02#16) atFc) (fun s => (s.state, s.off)) = some (2#4, 2#8) := by decide
/-- A1: no bytes consumed. -/
theorem test_damNone : after (exec (.damNone 0x0001#16) atDst) (fun s => (s.state, s.off)) = some (6#4, 3#8) := by decide
/-- A13: an address that is not 0xFFFF is no broadcast. -/
theorem test_damShort : after (exec (.damShort 0xC801#16) { atDst with frameBuf := Memory.set frameP2 5 0x01#8 })
    (fun s => (s.state, s.off, s.res.bcast, s.res.dstAddr)) = some (6#4, 7#8, false, 0xFF01#64) := by decide
/-- A16's order of bytes, with P2's bytes 5 to 12. -/
theorem test_damLong : after (exec (.damLong 0xCC01#16) atDst) (fun s => (s.state, s.off, s.res.dstAddr)) =
    some (6#4, 13#8, 0x010203044447FFFF#64) := by decide
/-- A4. -/
theorem test_samNone : after (exec (.samNone 0x0801#16) atSrc) (fun s => (s.state, s.off, s.res.hdrLen)) =
    some (7#4, 9#8, 9#8) := by decide
/-- A7's length, with P2's bytes 9 and 10. -/
theorem test_samShort : after (exec (.samShort 0x8801#16) atSrc) (fun s => (s.off, s.res.hdrLen, s.res.srcAddr)) =
    some (11#8, 11#8, 0x0304#64) := by decide
/-- A15's order of bytes: P2's source address. -/
theorem test_samLong : after (exec (.samLong 0xC801#16) atSrc) (fun s => (s.off, s.res.srcAddr)) =
    some (17#8, 0x00158D0001020304#64) := by decide

/-! ## The nonce, the operands and the fetch -/

/-- N3: the wire order. -/
theorem test_nonce_wire : (buildNonce .wire 0x00#8 atNonce.counterBytes 0x00158D0001020304#64).toList =
    [0x78#8, 0x56#8, 0x34#8, 0x12#8, 0x04#8, 0x03#8, 0x02#8, 0x01#8, 0x00#8, 0x8D#8, 0x15#8, 0x00#8, 0x00#8] := by decide
/-- N7 with N6's pad: the decoded order. -/
theorem test_nonce_decoded : (buildNonce .decoded 0x5A#8 atNonce.counterBytes 0x00158D0001020304#64).toList =
    [0x78#8, 0x56#8, 0x34#8, 0x12#8, 0x00#8, 0x15#8, 0x8D#8, 0x00#8, 0x01#8, 0x02#8, 0x03#8, 0x04#8, 0x5A#8] := by decide
/-- P2: AD = bytes 0 to 16, ciphertext AA BB CC, tag 11 22 33 44. -/
theorem test_ccmOperands :
    (atWait.ccmOperands.associatedData.length, atWait.ccmOperands.ciphertext, atWait.ccmOperands.tag) =
      (17, [0xAA#8, 0xBB#8, 0xCC#8], [0x11#8, 0x22#8, 0x33#8, 0x44#8]) := by decide
/-- C3: the engine's answer is ignored in S_DONE. -/
theorem test_engine_ignored : after (step { atDone with turns := [.engine false] }) State.statusWord =
    some 0x110F0012#32 := by decide
/-- X7. -/
theorem test_reset_turn : after (step { atWait with turns := [.reset] }) (fun s => (s.statusWord, s.frameLen)) =
    some (0#32, 0#8) := by decide
theorem test_fetch_cmd : after (step (State.reset.withFetchWord 32 0x1)) State.state = some 1#4 := by decide
theorem test_fetch_td : after (step (State.reset.withFetchWord 16 0x302)) State.busErr = some true := by decide
theorem test_fetch_fsm : after (step (State.reset.withFetchWord 8 0x9)) State.statusWord = some 0x000F0E42#32 := by decide
theorem test_fetch_fc : after (step (State.reset.withFetchWord 16 0x8861)) State.state = some 3#4 := by decide
theorem test_fetch_dam : after (step (State.reset.withFetchWord 16 0x800)) (fun s => s.res.reason) = some 0x09#8 := by decide
theorem test_state_code_refused : step { State.reset with state := 0xD#4 } = .refused (.stateNeverEntered 0xD#4) := rfl
theorem test_mode1_refused :
    exec .sDst { atDst with res := { afterSeq with fcRaw := 0x0401#16 } } = .refused .reservedAddressingMode := rfl

/-! ## Witnesses: the premises of each statement are met, each clause at its boundary -/

theorem inv_atFc : Inv atFc := by
  refine ⟨by decide, ⟨?_, ?_, ?_, ?_, ?_⟩, ?_, ?_, by decide⟩
  case refine_6 => constructor <;> decide
  case refine_7 => constructor <;> decide
  all_goals decide

theorem inv_atDst : Inv atDst := by
  refine ⟨by decide, ⟨?_, ?_, ?_, ?_, ?_⟩, ?_, ?_, by decide⟩
  case refine_6 => constructor <;> decide
  case refine_7 => constructor <;> decide
  all_goals decide

theorem inv_atFilter : Inv atFilter := by
  refine ⟨by decide, ⟨?_, ?_, ?_, ?_, ?_⟩, ?_, ?_, by decide⟩
  case refine_6 => constructor <;> decide
  case refine_7 => constructor <;> decide
  all_goals decide

theorem inv_atForeign : Inv { atFilter with cfgPan := 0x1234#16 } := by
  refine ⟨by decide, ⟨?_, ?_, ?_, ?_, ?_⟩, ?_, ?_, by decide⟩
  case refine_6 => constructor <;> decide
  case refine_7 => constructor <;> decide
  all_goals decide

theorem inv_atNonce : Inv atNonce := by
  refine ⟨by decide, ⟨?_, ?_, ?_, ?_, ?_⟩, ?_, ?_, by decide⟩
  case refine_6 => constructor <;> decide
  case refine_7 => constructor <;> decide
  all_goals decide

/-- The invariant says nothing of the turns to come. -/
theorem inv_turns {s : State} (h : Inv s) (ts : List Turn) : Inv { s with turns := ts } :=
  ⟨h.memory, { h.status with }, { h.results with }, { h.progress with }, h.config⟩

theorem inv_reset : Inv State.reset := by
  refine ⟨by decide, ⟨?_, ?_, ?_, ?_, ?_⟩, ?_, ?_, by decide⟩
  case refine_6 => constructor <;> decide
  case refine_7 => constructor <;> decide
  all_goals decide

theorem inv_loaded : Inv loaded := by
  refine ⟨by decide, ⟨?_, ?_, ?_, ?_, ?_⟩, ?_, ?_, by decide⟩
  case refine_6 => constructor <;> decide
  case refine_7 => constructor <;> decide
  all_goals decide

theorem inv_atWait : Inv atWait := by
  refine ⟨by decide, ⟨?_, ?_, ?_, ?_, ?_⟩, ?_, ?_, by decide⟩
  case refine_6 => constructor <;> decide
  case refine_7 => constructor <;> first | decide | (intro _; exact ⟨rfl, rfl, rfl⟩)
  all_goals decide

theorem inv_atDone : Inv atDone := by
  refine ⟨by decide, ⟨?_, ?_, ?_, ?_, ?_⟩, ?_, ?_, by decide⟩
  case refine_6 => constructor <;> decide
  case refine_7 => constructor <;> decide
  all_goals decide

/-- The engine's event, and the three writes to CMD that matter at rest. -/
def waitEngine (ok : Bool) : State := { atWait with turns := [.engine ok] }
def doneUndefined : State := { atDone with turns := [.host 0x70C#11 3#32] }
def doneClear : State := { atDone with turns := [.host 0x70C#11 2#32] }
def resetParse : State := { State.reset with turns := [.host 0x70C#11 1#32] }

theorem inv_waitEngine (ok : Bool) : Inv (waitEngine ok) := inv_turns inv_atWait _

theorem inv_doneUndefined : Inv doneUndefined := inv_turns inv_atDone _

theorem inv_doneClear : Inv doneClear := inv_turns inv_atDone _

theorem inv_resetParse : Inv resetParse := inv_turns inv_reset _

theorem witness_BytesOfAnInstructionDecodeToIt :
    (Instr.wr32Reg 0x1FC#9 0xFFFFFFFF#32).wellFormed = true ∧ (Instr.ftExtended 0x0007#16).wellFormed = true ∧
    (Instr.samLong 0xC801#16).wellFormed = true ∧ Instr.sDone.wellFormed = true ∧
    (Instr.cmdUndefined 0x3#32).wellFormed = true := by decide

theorem witness_DecodedWordsAreWellFormedAndEncodeBack :
    decode (.td11 0x70C#11 9#32) = .ok (.wrCmd 9#32) ∧ decode (.td11 0x4FF#11 0x109#32) = .ok (.wr8 0xFF#8 0x109#32) ∧
    decode (.td11 0x6FC#11 9#32) = .ok (.wr32Buf 0xFC#8 9#32) ∧ decode (.td11 0x7FC#11 9#32) = .ok (.wr32Reg 0x1FC#9 9#32) ∧
    decode (.td11 0x7FF#11 9#32) = .ok (.refusedMisalignedBit0 true 0x1FF#9) ∧ decode (.td11 0x0FF#11 9#32) = .ok (.rd8 0xFF#8) ∧
    decode (.cmd32 0x0#32) = .ok .nop ∧ decode (.cmd32 0x3#32) = .ok (.cmdUndefined 0x3#32) ∧
    decode (.fsm4 0xF#4) = .ok .sDone ∧ decode (.fc16 0xFFFF#16) = .ok (.rejReservedBit 0xFFFF#16) ∧
    decode (.dst16 0xCC01#16) = .ok (.damLong 0xCC01#16) ∧ decode (.src16 0x0001#16) = .ok (.samNone 0x0001#16) := by decide

/-- One descriptor for each clause, in order. -/
theorem witness_TransactionPatternsFirstMatchWins :
    ((0x201#11 : BitVec 11).getLsbD 9 = true ∧ (0x201#11 : BitVec 11).extractLsb' 0 2 ≠ 0#2) ∧
    ((0x100#11 : BitVec 11).getLsbD 9 = false ∧ (0x100#11 : BitVec 11).getLsbD 8 = true) ∧
    ((0x0FF#11 : BitVec 11).getLsbD 10 = false ∧ (0x0FF#11 : BitVec 11).getLsbD 9 = false ∧
      (0x0FF#11 : BitVec 11).getLsbD 8 = false) ∧
    ((0x4FF#11 : BitVec 11).getLsbD 10 = true ∧ (0x4FF#11 : BitVec 11).getLsbD 9 = false ∧
      (0x4FF#11 : BitVec 11).getLsbD 8 = false) ∧
    ((0x2FC#11 : BitVec 11).getLsbD 10 = false ∧ (0x2FC#11 : BitVec 11).getLsbD 9 = true ∧
      (0x2FC#11 : BitVec 11).getLsbD 8 = false ∧ ¬ (0x2FC#11 : BitVec 11).extractLsb' 0 2 ≠ 0#2) ∧
    ((0x6FC#11 : BitVec 11).getLsbD 10 = true ∧ (0x6FC#11 : BitVec 11).getLsbD 9 = true ∧
      (0x6FC#11 : BitVec 11).getLsbD 8 = false ∧ ¬ (0x6FC#11 : BitVec 11).extractLsb' 0 2 ≠ 0#2) ∧
    ((0x300#11 : BitVec 11).getLsbD 10 = false ∧ (0x300#11 : BitVec 11).getLsbD 9 = true ∧
      (0x300#11 : BitVec 11).getLsbD 8 = true ∧ ¬ (0x300#11 : BitVec 11).extractLsb' 0 2 ≠ 0#2) ∧
    ((0x710#11 : BitVec 11).getLsbD 10 = true ∧ (0x710#11 : BitVec 11).getLsbD 9 = true ∧
      (0x710#11 : BitVec 11).getLsbD 8 = true ∧ ¬ (0x710#11 : BitVec 11).extractLsb' 0 2 ≠ 0#2 ∧
      (0x710#11 : BitVec 11) ≠ 0x70C#11) := by decide

/-- The fields FirstFailingCheckGivesTheRow names, as one tuple. -/
def checks (fc : BitVec 16) : Bool × Bool × Bool × BitVec 2 × BitVec 2 × BitVec 2 × BitVec 3 :=
  (fc.getLsbD 7, fc.getLsbD 8, fc.getLsbD 9, fc.extractLsb' 12 2, fc.extractLsb' 10 2, fc.extractLsb' 14 2,
    fc.extractLsb' 0 3)

/-- One word for each clause, in order; the words are those of 95_test_vectors.md section 3. -/
theorem witness_FirstFailingCheckGivesTheRow :
    (checks 0xFFFF#16).1 = true ∧ checks 0xC901#16 = (false, true, false, 0#2, 2#2, 3#2, 1#3) ∧
    checks 0xCA01#16 = (false, false, true, 0#2, 2#2, 3#2, 1#3) ∧
    checks 0xD801#16 = (false, false, false, 1#2, 2#2, 3#2, 1#3) ∧
    checks 0xE801#16 = (false, false, false, 2#2, 2#2, 3#2, 1#3) ∧
    checks 0xF801#16 = (false, false, false, 3#2, 2#2, 3#2, 1#3) ∧
    checks 0x4401#16 = (false, false, false, 0#2, 1#2, 1#2, 1#3) ∧
    checks 0x4801#16 = (false, false, false, 0#2, 2#2, 1#2, 1#3) ∧
    checks 0x0000#16 = (false, false, false, 0#2, 0#2, 0#2, 0#3) ∧
    checks 0xC801#16 = (false, false, false, 0#2, 2#2, 3#2, 1#3) ∧
    checks 0x0C02#16 = (false, false, false, 0#2, 3#2, 0#2, 2#3) ∧
    checks 0x0003#16 = (false, false, false, 0#2, 0#2, 0#2, 3#3) ∧
    checks 0x0004#16 = (false, false, false, 0#2, 0#2, 0#2, 4#3) ∧
    checks 0x0005#16 = (false, false, false, 0#2, 0#2, 0#2, 5#3) ∧
    checks 0x0006#16 = (false, false, false, 0#2, 0#2, 0#2, 6#3) ∧
    checks 0x0007#16 = (false, false, false, 0#2, 0#2, 0#2, 7#3) := by and_intros <;> decide

theorem witness_StepRunsTheDecodedInstruction :
    decode (.fsm4 atWait.state) = .ok .sCcmWait ∧ decode (.td11 0x70C#11 2#32) = .ok (.wrCmd 2#32) ∧
    { atWait with turns := [.host 0x70C#11 2#32] : State }.turns = .host 0x70C#11 2#32 :: [] ∧
    (atFc.turns = [] ∧ atFc.busy = true ∧ decode (.fsm4 atFc.state) = .ok .sFc) ∧
    { atFc with turns := [.block, .block] : State }.turns = .block :: [.block] ∧
    { atWait with turns := [.engine true] : State }.turns = .engine true :: [] := by decide

theorem witness_TurnsThatAreNoInstruction :
    decode (.fsm4 atDone.state) = .ok .sDone ∧ (atDone.turns = [] ∧ atDone.busy = false) ∧
    { atDone with turns := [.otherWidth true 0x000#9] : State }.turns = .otherWidth true 0x000#9 :: [] ∧
    { atDone with turns := [.otherWidth false 0x1FF#9] : State }.turns = .otherWidth false 0x1FF#9 :: [] ∧
    { atDone with turns := [.block] : State }.turns = .block :: [] ∧
    { atDone with turns := [.reset] : State }.turns = .reset :: [] := by decide

/-- The first and the last of the codes. -/
theorem witness_StateCodesNeverEnteredAreRefused :
    step { loaded with state := 0xC#4 } = .refused (.stateNeverEntered 0xC#4) ∧
    step { loaded with state := 0xE#4 } = .refused (.stateNeverEntered 0xE#4) := ⟨rfl, rfl⟩

theorem witness_EveryStepKeepsTheInvariant : Inv atFc ∧ ∃ t, step atFc = .next t := ⟨inv_atFc, _, rfl⟩

theorem witness_NoFrameContentStopsTheMachine : Inv atFc ∧ Inv atDst ∧ Inv atFilter ∧ Inv atNonce :=
  ⟨inv_atFc, inv_atDst, inv_atFilter, inv_atNonce⟩

theorem witness_EveryParseEndsWithinNineSteps :
    (Inv atFc ∧ atFc.state = FsmCode.fc ∧ atFc.turns = []) ∧
    ∀ ok, Inv (waitEngine ok) ∧ (waitEngine ok).state = FsmCode.ccmWait ∧ (waitEngine ok).turns = .engine ok :: [] :=
  ⟨⟨inv_atFc, rfl, rfl⟩, fun ok => ⟨inv_waitEngine ok, rfl, rfl⟩⟩

theorem witness_MemReadIsLittleEndian : loaded.readLe 24 4 / 256 ^ 3 % 256 = 0x12 ∧ 3 < 4 ∧ 0 < 1 := by decide

theorem witness_FrameBufferFormIsCanonical :
    Memory.wf frameP2 = true ∧ Memory.wf [] = true ∧ (∀ a, Memory.get? frameP2 a = Memory.get? frameP2 a) ∧ 255 < 256 :=
  ⟨by decide, by decide, fun _ => rfl, by decide⟩

theorem witness_ParseStartsAParseOrIsIgnored : loaded.busy = false ∧ atWait.busy = true := by decide

theorem witness_UndefinedCommandsSetBadCmdOnly :
    (0x3#32 ≠ 0#32 ∧ 0x3#32 ≠ 1#32 ∧ 0x3#32 ≠ 2#32) ∧
    (0xFFFFFFFF#32 ≠ 0#32 ∧ 0xFFFFFFFF#32 ≠ 1#32 ∧ 0xFFFFFFFF#32 ≠ 2#32) := by decide

theorem witness_NothingOfAFrameSurvivesParse : atDone.busy = false := by decide

/-- A descriptor of each refused kind, and the turn of another width. -/
theorem witness_RefusedAccessesSetBusErrOnly :
    ((0x202#11 : BitVec 11).getLsbD 9 = true ∧ (0x202#11 : BitVec 11).extractLsb' 0 2 ≠ 0#2) ∧
    ((0x7FF#11 : BitVec 11).getLsbD 9 = true ∧ (0x7FF#11 : BitVec 11).extractLsb' 0 2 ≠ 0#2) ∧
    ((0x100#11 : BitVec 11).getLsbD 9 = false ∧ (0x100#11 : BitVec 11).getLsbD 8 = true) ∧
    decode (.fsm4 atDone.state) = .ok .sDone ∧
    { atDone with turns := [.otherWidth true 0x000#9] : State }.turns = .otherWidth true 0x000#9 :: [] := by decide

theorem witness_Rd32BufReturnsFourBytesLittleEndian :
    (0xFC#8).toNat % 4 = 0 ∧ (0x00#8).toNat % 4 = 0 ∧ (0xFF#8).toNat % 4 ≠ 0 ∧ (0x01#8).toNat % 4 ≠ 0 := by decide

theorem witness_Rd32RegReturnsTheRegister :
    (0x148#9).toNat % 4 = 0 ∧ (0x103#9).toNat % 4 ≠ 0 ∧ (0x14C ≤ (0x14C#9).toNat ∧ (0x14C#9).toNat % 4 = 0) ∧
    (0x14C ≤ (0x1FC#9).toNat ∧ (0x1FC#9).toNat % 4 = 0) := by decide

theorem witness_Wr8StoresOneByteOrIsDropped : atWait.busy = true ∧ loaded.busy = false := by decide

theorem witness_Wr32BufStoresFourBytesOrIsDropped :
    (0x01#8).toNat % 4 ≠ 0 ∧ ((0xFC#8).toNat % 4 = 0 ∧ atWait.busy = true) ∧
    ((0xFC#8).toNat % 4 = 0 ∧ loaded.busy = false ∧ 251 < (0xFC#8).toNat ∧ (0xFC#8).toNat + 4 ≤ 256 ∧ 3 < 4) := by decide

theorem witness_Wr32RegWritesTheWritableFields :
    (0x101#9).toNat % 4 ≠ 0 ∧ loaded.busy = false ∧ atWait.busy = true ∧
    ((0x10C#9).toNat % 4 = 0 ∧ 0x10C#9 ≠ 0x100#9 ∧ 0x10C#9 ≠ 0x104#9 ∧ 0x10C#9 ≠ 0x108#9) ∧
    ((0x1FC#9).toNat % 4 = 0 ∧ 0x1FC#9 ≠ 0x100#9 ∧ 0x1FC#9 ≠ 0x104#9 ∧ 0x1FC#9 ≠ 0x108#9) := by decide

theorem witness_IrqFollowsDoneWhenEnabled :
    (atDone.busy = false ∧ ∃ t, exec .parse atDone = .next t) ∧ (∃ t, exec .clear atDone = .next t) ∧
    ∃ t, exec (.wr32Reg 0x108#9 1#32) atDone = .next t := ⟨⟨rfl, _, rfl⟩, ⟨_, rfl⟩, _, rfl⟩

theorem witness_SFcChecksTheLengthThenRunsItsRow :
    { atFc with frameLen := 1#8 : State }.frameLen.toNat < 2 ∧ 2 ≤ { atFc with frameLen := 2#8 : State }.frameLen.toNat := by
  decide

theorem witness_FrameTypesAreDispatched :
    (Instr.ftBeacon 0x0000#16).wellFormed = true ∧ (Instr.ftMacCommand 0x0003#16).wellFormed = true ∧
    (Instr.ftReserved 0x0004#16).wellFormed = true ∧ (Instr.ftMultipurpose 0x0005#16).wellFormed = true ∧
    (Instr.ftFragment 0x0006#16).wellFormed = true ∧ (Instr.ftExtended 0xCC07#16).wellFormed = true := by decide

theorem witness_SAckReadsSeqAndEnds :
    3 ≤ { atFc with frameLen := 3#8 : State }.frameLen.toNat ∧ { atFc with frameLen := 2#8 : State }.frameLen.toNat < 3 := by
  decide

theorem witness_SSeqReadsTheSequenceNumber :
    atSeq.off = 2#8 ∧ { atSeq with frameLen := 2#8 : State }.frameLen.toNat < 3 ∧
    3 ≤ { atSeq with frameLen := 3#8 : State }.frameLen.toNat := by decide

theorem witness_AddressStatesRunTheRowOfTheirMode :
    decode (.dst16 atDst.res.fcRaw) = .ok (.damShort 0xC801#16) ∧ decode (.src16 atSrc.res.fcRaw) = .ok (.samLong 0xC801#16) ∧
    (0x0401#16).extractLsb' 10 2 = 1#2 ∧ (0x4001#16).extractLsb' 14 2 = 1#2 := by decide

/-- A frame of `n` bytes at S_DST. -/
def atDstOf (n : BitVec 8) : State := { atDst with frameLen := n }

theorem witness_DestinationFieldsAreReadByMode :
    (atDstOf 4#8).frameLen.toNat < 3 + 2 ∧ (3 + 2 ≤ (atDstOf 5#8).frameLen.toNat ∧ (atDstOf 6#8).frameLen.toNat < 3 + 4) ∧
    (3 + 2 ≤ (atDstOf 5#8).frameLen.toNat ∧ (atDstOf 12#8).frameLen.toNat < 3 + 10) ∧ atDst.off.toNat = 3 ∧
    (3 + 4 ≤ (atDstOf 7#8).frameLen.toNat ∧ BitVec.ofNat 16 ((atDstOf 7#8).readLe 3 2) = 0xFFFF#16 ∧
      BitVec.ofNat 16 ((atDstOf 7#8).readLe 5 2) = 0xFFFF#16) ∧
    (3 + 4 ≤ (atDstOf 7#8).frameLen.toNat ∧
      ¬ BitVec.ofNat 16 ({ atDstOf 7#8 with frameBuf := Memory.set frameP2 5 0x01#8 : State }.readLe 5 2) = 0xFFFF#16) ∧
    3 + 10 ≤ (atDstOf 13#8).frameLen.toNat := by decide

theorem witness_SSrcPanReplacesThePan :
    { atSrcPan with frameLen := 8#8 : State }.frameLen.toNat < atSrcPan.off.toNat + 2 ∧
    atSrcPan.off.toNat + 2 ≤ { atSrcPan with frameLen := 9#8 : State }.frameLen.toNat := by decide

theorem witness_SourceFieldsAreReadByMode :
    { atSrc with frameLen := 10#8 : State }.frameLen.toNat < atSrc.off.toNat + 2 ∧
    { atSrc with frameLen := 16#8 : State }.frameLen.toNat < atSrc.off.toNat + 8 ∧
    atSrc.off.toNat + 2 ≤ { atSrc with frameLen := 11#8 : State }.frameLen.toNat ∧
    atSrc.off.toNat + 8 ≤ { atSrc with frameLen := 17#8 : State }.frameLen.toNat := by decide

theorem witness_SBoundSetsThePayloadRegion :
    { atBound with frameLen := 18#8 : State }.frameLen.toNat < atBound.off.toNat + 2 ∧
    atBound.off.toNat + 2 ≤ { atBound with frameLen := 19#8 : State }.frameLen.toNat := by decide

/-- S_DST entered with the frame-control word `fc` and a frame of `n` bytes of `m`. -/
def dstRow (fc : BitVec 16) (m : List Host.Cell) (n : BitVec 8) : State :=
  { atDst with res := { afterSeq with fcRaw := fc }, frameBuf := m, frameLen := n }

theorem inv_dstRow {fc : BitVec 16} {m : List Host.Cell} {n : BitVec 8} (hm : Memory.wf m = true) (hn : 3 ≤ n.toNat)
    (hd : fcDAM fc ≠ 1#2) (hs : fcSAM fc ≠ 1#2) : Inv (dstRow fc m n) := by
  obtain ⟨-, st, re, pr, co⟩ := inv_atDst
  exact ⟨hm, ⟨st.legal, st.busy, st.done, st.ccmReq, st.ccmDone⟩,
    { re with idle := nofun, fc := nofun, hdrLen := nofun, verdict := nofun },
    { pr with
      bound := fun _ => hn, atFc := nofun, atSrcPan := nofun, atSrc := nofun, modes := fun _ => ⟨rfl, hd, hs⟩,
      header := nofun, payload := nofun, segments := nofun, wait := nofun }, co⟩

/-- The premises of HeaderLengthIsTheTablesEntry, with the frame exactly as long as its header. -/
def dstRowMeets (fc : BitVec 16) (m : List Host.Cell) (n : BitVec 8) (bc : Bool) : Bool :=
  let s := dstRow fc m n
  Memory.wf m && decide (3 ≤ n.toNat) && fcDAM fc != 1#2 && fcSAM fc != 1#2 && s.state == FsmCode.dst && s.turns == [] &&
    bc == (fcDAM fc == 2#2 && s.readLe 3 2 == 0xFFFF && s.readLe 5 2 == 0xFFFF) && headerLength fc bc == n.toNat

/-- P2's frame with a destination address that is not broadcast. -/
def frameUnicast : List Host.Cell := Memory.set frameP2 5 0x01#8

/-- The twelve rows of 30_encoding.md R67 in order, each at its boundary; dstRowMeets gives Inv by inv_dstRow. -/
theorem witness_HeaderLengthIsTheTablesEntry :
    (∀ fc m n bc, dstRowMeets fc m n bc = true → Inv (dstRow fc m n)) ∧
    dstRowMeets 0x0001#16 frameP2 3#8 false = true ∧ dstRowMeets 0x8001#16 frameP2 5#8 false = true ∧
    dstRowMeets 0xC001#16 frameP2 11#8 false = true ∧ dstRowMeets 0x0801#16 frameUnicast 7#8 false = true ∧
    dstRowMeets 0x8801#16 frameUnicast 9#8 false = true ∧ dstRowMeets 0xC801#16 frameUnicast 15#8 false = true ∧
    dstRowMeets 0x0801#16 frameP2 9#8 true = true ∧ dstRowMeets 0x8801#16 frameP2 11#8 true = true ∧
    dstRowMeets 0xC801#16 frameP2 17#8 true = true ∧ dstRowMeets 0x0C01#16 frameP2 13#8 false = true ∧
    dstRowMeets 0x8C01#16 frameP2 15#8 false = true ∧ dstRowMeets 0xCC01#16 frameP2 21#8 false = true := by
  refine ⟨fun fc m n bc h => ?_, by and_intros <;> decide⟩
  simp only [dstRowMeets, Bool.and_eq_true, decide_eq_true_eq, bne_iff_ne] at h
  obtain ⟨⟨⟨⟨⟨⟨⟨hm, hn⟩, hd⟩, hs⟩, -⟩, -⟩, -⟩, -⟩ := h
  exact inv_dstRow hm hn hd hs

theorem witness_SFilterPassesOnlyTheConfiguredPan :
    Results.reset.panValid = false ∧ (atFilter.res.panValid = true ∧ atFilter.res.panId ≠ 0x1234#16) ∧
    (atFilter.res.panValid = true ∧ atFilter.res.panId = atFilter.cfgPan) := by decide

theorem witness_NoRequestForAForeignPan :
    (Inv { atFilter with cfgPan := 0x1234#16 } ∧
      ∃ t, step { atFilter with cfgPan := 0x1234#16 } = .next t ∧ t.res.outcome = .filterMiss) ∧
    (Inv atNonce ∧ ∃ t, step atNonce = .next t ∧ t.ccmReq = true) :=
  ⟨⟨inv_atForeign, _, rfl, rfl⟩, inv_atNonce, _, rfl, rfl⟩

theorem witness_SSegmentSplitsThePayload :
    atSegment.res.payOff.toNat + atSegment.res.payLen.toNat ≤ atSegment.frameLen.toNat ∧ (7#8).toNat < 8 ∧
    8 ≤ (8#8).toNat ∧ { afterBound with payLen := 8#8 : Results }.payOff.toNat + 8 ≤ atSegment.frameLen.toNat := by decide

theorem witness_SNonceBuildsTheNonceAndAsksTheEngine :
    (24#8).toNat + 4 ≤ (28#8).toNat ∧ atNonce.res.ctrOff.toNat + 4 ≤ { atNonce with frameLen := 28#8 : State }.frameLen.toNat ∧
    atNonce.res.srcKind = .long ∧ afterFc.srcKind ≠ .long := by decide

theorem witness_NoncesAreInjective :
    buildNonce .wire 0#8 #v[1#8, 2#8, 3#8, 4#8] 5#64 = buildNonce .wire 0#8 #v[1#8, 2#8, 3#8, 4#8] 5#64 := rfl

theorem witness_SegmentsTileTheFrame :
    (Inv atNonce ∧ (atNonce.state = FsmCode.nonce ∨ atNonce.state = FsmCode.ccmWait)) ∧
    (Inv (waitEngine true) ∧ (waitEngine true).state = FsmCode.ccmWait) :=
  ⟨⟨inv_atNonce, .inl rfl⟩, inv_waitEngine true, rfl⟩

theorem witness_SCcmWaitTakesTheEnginesAnswer :
    atWait.ccmDone = none ∧ atWait.state = 0xB#4 ∧ { atWait with ccmDone := some true : State }.ccmDone = some true ∧
    { atWait with ccmDone := some false : State }.ccmDone = some false ∧ atDone.state ≠ 0xB#4 := by decide

theorem witness_InputsAreStableDuringAParse :
    atFc.busy = true ∧ (∀ rest, atFc.turns ≠ .reset :: rest) ∧ ∃ t, step atFc = .next t :=
  by
  refine ⟨rfl, ?_, _, rfl⟩
  intro rest h; cases h

theorem witness_ResultsStayUntilParseOrClear :
    Inv doneUndefined ∧ doneUndefined.done = true ∧ (∃ t, step doneUndefined = .next t) ∧
    (∀ rest, doneUndefined.turns ≠ .reset :: rest) ∧
    (∀ v rest, doneUndefined.turns = .host 0x70C#11 v :: rest → v ≠ 1#32 ∧ v ≠ 2#32) := by
  refine ⟨inv_doneUndefined, rfl, ⟨_, rfl⟩, ?_, ?_⟩
  · intro rest h; cases h
  · intro v rest h; cases h; decide

/-- Both clauses: CLEAR leaves S_DONE, and PARSE enters S_FC. -/
theorem witness_OnlyParseStartsAParse :
    (Inv doneClear ∧ doneClear.busy = false ∧ ∃ t, step doneClear = .next t ∧ t.state ≠ doneClear.state) ∧
    (Inv resetParse ∧ resetParse.state ≠ FsmCode.fc ∧ ∃ t, step resetParse = .next t ∧ t.state = FsmCode.fc) :=
  ⟨⟨inv_doneClear, rfl, _, rfl, by decide⟩, inv_resetParse, by decide, _, rfl, rfl⟩

/-- The frame with a byte beyond FRAME_LEN written, and another reset's unwritten bytes. -/
theorem witness_BytesBeyondTheFrameNeverMatter :
    Inv atFc ∧ atFc.turns = [] ∧
    (∀ a, a < atFc.frameLen.toNat →
      { atFc with frameBuf := frameP2 ++ [(30, 0x77#8)], epoch := 7 : State }.frameByte a = atFc.frameByte a) ∧
    ∃ t, step atFc = .next t := by
  refine ⟨inv_atFc, rfl, ?_, _, rfl⟩
  intro a ha
  have h : ∀ a : Fin 30, Memory.get? (frameP2 ++ [(30, 0x77#8)]) a.val = Memory.get? frameP2 a.val ∧
      (Memory.get? frameP2 a.val).isSome = true := by decide
  obtain ⟨h1, h2⟩ := h ⟨a, ha⟩
  obtain ⟨b, hb⟩ := Option.isSome_iff_exists.1 h2
  show (Memory.get? (frameP2 ++ [(30, 0x77#8)]) a).getD _ = (Memory.get? frameP2 a).getD _
  rw [show Memory.get? (frameP2 ++ [(30, 0x77#8)]) a = some b from h1.trans hb, show Memory.get? frameP2 a = some b from hb]
  rfl

/-- The last byte of each operand of P2's request, the tag's length at its bound. -/
theorem witness_CcmOperandsAreTheRulesBytes :
    16 < atWait.res.adLen.toNat ∧ 2 < atWait.res.ctLen.toNat ∧ 3 < 4 ∧
    atWait.ccmOperands.tag[3]? = some (atWait.frameByte 23) := by decide

/-- P2's parse with the host reading STATUS between two steps of the block. -/
def atFcRead : State := { atFc with turns := [.host 0x310#11 0#32, .block] }
def atFcBlock : State := { atFc with turns := [.block] }

theorem inv_atFcRead : Inv atFcRead := inv_turns inv_atFc _

theorem inv_atFcBlock : Inv atFcBlock := inv_turns inv_atFc _

/-- The block's turn unlisted and listed, a host's turn and the engine's; and a parse with no step left. -/
theorem witness_EachBlockStepLowersTheMeasure :
    (Inv atFc ∧ atFc.busy = true ∧ atFc.turns = [] ∧ 0 < stepsLeft atFc.state ∧ ∃ t, step atFc = .next t) ∧
    (Inv atFcBlock ∧ atFcBlock.busy = true ∧ atFcBlock.turns = .block :: [] ∧ ∃ t, step atFcBlock = .next t) ∧
    (Inv atFcRead ∧ atFcRead.busy = true ∧ atFcRead.turns = .host 0x310#11 0#32 :: [.block] ∧
      (.host 0x310#11 0#32 : Turn) ≠ .host 0x70C#11 2#32 ∧ ∃ t, step atFcRead = .next t) ∧
    (Inv (waitEngine true) ∧ (waitEngine true).busy = true ∧ stepsLeft (waitEngine true).state = 0 ∧
      ∃ t, step (waitEngine true) = .next t) :=
  ⟨⟨inv_atFc, rfl, rfl, by decide, _, rfl⟩, ⟨inv_atFcBlock, rfl, rfl, _, rfl⟩,
    ⟨inv_atFcRead, rfl, rfl, by decide, _, rfl⟩, inv_waitEngine true, rfl, rfl, _, rfl⟩

/-- What follows P2's PARSE: nine turns of the block, the host reading STATUS among them, and the engine's answer. -/
def launchRest : List Turn :=
  [.block, .host 0x310#11 0#32] ++ List.replicate 8 .block ++ [.engine true]

def launch : State := { loaded with turns := .host 0x70C#11 1#32 :: launchRest }

theorem inv_launch : Inv launch := inv_turns inv_loaded _

theorem launch_premise : LaunchPremise launch := by
  refine ⟨rfl, ?_, rfl, by decide⟩
  intro a ha
  have h : ∀ a : Fin 30, (Memory.get? frameP2 a.val).isSome = true := by decide
  exact h ⟨a, ha⟩

theorem witness_LaunchedParseEnds :
    Inv launch ∧ launch.turns = .host 0x70C#11 1#32 :: launchRest ∧ LaunchPremise launch ∧ 9 ≤ launchRest.count .block ∧
    ∀ u ∈ launchRest, u ≠ .reset ∧ u ≠ .host 0x70C#11 1#32 ∧ u ≠ .host 0x70C#11 2#32 :=
  ⟨inv_launch, rfl, launch_premise, by decide, by decide⟩

/-- An engine that answers twice, or not at all, does not meet the premise. -/
theorem test_engineAnswersOnce :
    engineAnswersOnce (List.replicate 9 .block ++ [.engine true, .engine true]) 0 atFc = false ∧
    engineAnswersOnce (List.replicate 9 .block) 0 atFc = false := by decide

end Sys2Proof.Tests
end

section
/-! The bytes of a multi-byte read, and the end of a parse (00_scope.md R8). -/

namespace Sys2Proof.Machine

/-- The least significant byte of MemRead is the byte at the lowest offset (20_memory.md R40). -/
theorem State.readLe_succ_mod (s : State) (a n : Nat) : s.readLe a (n + 1) % 256 = (s.frameByte a).toNat := by
  have hbyte := (s.frameByte a).isLt
  simp only [State.readLe]
  omega

/-- Without its least significant byte MemRead is the read of the bytes that follow (20_memory.md R40). -/
theorem State.readLe_succ_div (s : State) (a n : Nat) : s.readLe a (n + 1) / 256 = s.readLe (a + 1) n := by
  have hbyte := (s.frameByte a).isLt
  simp only [State.readLe]
  omega

/-- By induction on the width, for every offset: byte 0 is the first byte of the read, byte k + 1 is byte k of the rest. -/
theorem State.readLe_byte (s : State) (a : Nat) {n k : Nat} (hk : k < n) :
    s.readLe a n / 256 ^ k % 256 = (s.frameByte (a + k)).toNat := by
  induction n generalizing a k with
  | zero => omega
  | succ n ih =>
    cases k with
    | zero => simpa using s.readLe_succ_mod a n
    | succ k =>
      calc s.readLe a (n + 1) / 256 ^ (k + 1) % 256
          = s.readLe a (n + 1) / 256 / 256 ^ k % 256 := by rw [Nat.pow_succ', Nat.div_div_eq_div_mul]
        _ = s.readLe (a + 1) n / 256 ^ k % 256 := by rw [State.readLe_succ_div]
        _ = (s.frameByte (a + 1 + k)).toNat := ih (a + 1) (by omega)
        _ = (s.frameByte (a + (k + 1))).toNat := by rw [Nat.add_right_comm, Nat.add_assoc]

/-- Settles O15: the bound is `readLe_lt`, each byte is `readLe_byte`. -/
theorem memReadIsLittleEndian : Obligations.MemReadIsLittleEndian :=
  fun s a n => ⟨s.readLe_lt a n, fun _ hk => s.readLe_byte a hk⟩

/-- Settles O17: `finish` is a record update of just these fields. -/
theorem finishRecordsTheDropAndNothingElse : Obligations.FinishRecordsTheDropAndNothingElse :=
  fun _ _ _ => rfl

end Sys2Proof.Machine
end

section
/-! What each kind of turn makes of a step (20_memory.md R52, log entries 1, 6, 12, 13, 14): the equations every statement
about `step` starts from. -/

namespace Sys2Proof.Machine

variable {s : State} {i j : Instr} {rest : List Turn}

/-- A code the FSM may hold is decoded (30_encoding.md R71). -/
theorem decode_of_stateLegal {code : BitVec 4} (h : stateLegal code = true) : ∃ i, decode (.fsm4 code) = .ok i := by
  have hall : ∀ c, stateLegal c = true → (decode (.fsm4 c)).isOk = true := by decide
  cases hd : decode (.fsm4 code) with
  | ok i => exact ⟨i, rfl⟩
  | error e => simpa [hd, Except.isOk, Except.toBool] using hall code h

theorem step_host {td : BitVec 11} {v : Word} (hj : decode (.fsm4 s.state) = .ok j) (ht : s.turns = .host td v :: rest)
    (hi : decode (.td11 td v) = .ok i) : step s = exec i (s.setTurns rest) := by
  simp only [step, plan_cons hj ht, planTurn, hi]

theorem step_unlisted_busy (hj : decode (.fsm4 s.state) = .ok j) (ht : s.turns = []) (hb : s.busy = true) :
    step s = exec j s := by
  simp only [step, plan_nil hj ht, planBlock_run hj hb]

theorem step_unlisted_resting (hj : decode (.fsm4 s.state) = .ok j) (ht : s.turns = []) (hb : s.busy = false) :
    step s = .next s := by
  simp only [step, plan_nil hj ht, planBlock_settle hj hb]

theorem step_block_busy (hj : decode (.fsm4 s.state) = .ok j) (ht : s.turns = .block :: rest) (hb : s.busy = true) :
    step s = exec j (s.setTurns rest) := by
  have hrun : planBlock (s.setTurns rest) = .run j (s.setTurns rest) := planBlock_run hj hb
  simp only [step, plan_cons hj ht, planTurn, hrun]

theorem step_block_resting (hj : decode (.fsm4 s.state) = .ok j) (ht : s.turns = .block :: rest) (hb : s.busy = false) :
    step s = .next (s.setTurns rest) := by
  have hsettle : planBlock (s.setTurns rest) = .settle (s.setTurns rest) := planBlock_settle hj hb
  simp only [step, plan_cons hj ht, planTurn, hsettle]

theorem step_engine {ok : Bool} (hj : decode (.fsm4 s.state) = .ok j) (ht : s.turns = .engine ok :: rest) :
    step s = exec .sCcmWait ((s.setTurns rest).setCcmDone (some ok)) := by
  simp only [step, plan_cons hj ht, planTurn]

theorem step_otherWidth {w : Bool} {off : BitVec 9} (hj : decode (.fsm4 s.state) = .ok j)
    (ht : s.turns = .otherWidth w off :: rest) : step s = .next ((s.setTurns rest).refuse w) := by
  simp only [step, plan_cons hj ht, planTurn]

theorem step_reset (hj : decode (.fsm4 s.state) = .ok j) (ht : s.turns = .reset :: rest) :
    step s = .next (s.setTurns rest).resetTurn := by
  simp only [step, plan_cons hj ht, planTurn]

/-- A code that is never entered has no step (93_implementation_defined.md row 13). -/
theorem step_undecoded {e : DecodeError} (he : decode (.fsm4 s.state) = .error e) :
    step s = .refused (.stateNeverEntered s.state) := by
  simp only [step, plan, he]

/-- Settles O7: one equation of `step` per kind of turn that runs an instruction. -/
theorem stepRunsTheDecodedInstruction : Obligations.StepRunsTheDecodedInstruction :=
  fun _ _ hj =>
    ⟨fun _ _ _ _ ht hi => step_host hj ht hi, fun ht hb => step_unlisted_busy hj ht hb,
      fun _ ht hb => step_block_busy hj ht hb, fun _ _ ht => step_engine hj ht⟩

/-- Settles O8: one equation of `step` per kind of turn that runs none. -/
theorem turnsThatAreNoInstruction : Obligations.TurnsThatAreNoInstruction := by
  intro s j hj
  refine ⟨fun w off rest ht => ?_, fun ht hb => step_unlisted_resting hj ht hb,
    fun _ ht hb => step_block_resting hj ht hb, fun _ ht => step_reset hj ht⟩
  rw [step_otherWidth hj ht, State.refuse_eq]
  rfl

/-- Settles O52: each is the identity by its definition (10_state.md R30). -/
theorem restingStatesHaveNoStep : Obligations.RestingStatesHaveNoStep :=
  fun _ => ⟨rfl, rfl⟩

/-- While BUSY = 0 PARSE starts a parse (40_host_commands.md R94). -/
theorem execParse_resting (hb : s.busy = false) : execParse s = .next s.startParse := by
  unfold execParse; exact if_neg (by simp [hb])

/-- While BUSY = 1 PARSE is ignored and flagged (40_host_commands.md R94). -/
theorem execParse_busy (hb : s.busy = true) : execParse s = .next s.flagCmdWhileBusy := by
  unfold execParse; exact if_pos hb

/-- Settles O22: `startParse` overwrites each of the four fields in which the machines differ. -/
theorem nothingOfAFrameSurvivesParse : Obligations.NothingOfAFrameSurvivesParse := by
  intro s r o d st hb
  calc execParse { s with res := r, off := o, done := d, state := st }
      = .next { s with res := r, off := o, done := d, state := st : State }.startParse := execParse_resting hb
    _ = .next s.startParse := rfl
    _ = execParse s := (execParse_resting hb).symm

/-- Settles O16: `wfFrom_ext` tells canonical forms apart by their bytes; a write keeps the form and is read back. -/
theorem frameBufferFormIsCanonical : Obligations.FrameBufferFormIsCanonical := by
  refine ⟨fun _ _ hm hm' h => Memory.wfFrom_ext hm hm' h, fun m a b hm ha => ⟨Memory.wf_set b hm ha, fun a' => ?_⟩⟩
  split
  · next h => rw [h, Memory.get?_set_same]
  · next h => exact Memory.get?_set_other m b h

end Sys2Proof.Machine
end

section
/-! The status words field by field (10_state.md R17, R19, R24): a field of a word is found by stepping over the fields
below it. -/

namespace Sys2Proof.Machine

@[simp] theorem flagBit_zero (b : Bool) : (flagBit b)[0] = b := by
  simp [flagBit]

/-- One bit of STATUS at a time: fields that lie below it are stepped over, its own field ends the search. -/
theorem State.statusWord_flags (s : State) :
    s.statusWord.getLsbD 0 = s.busy ∧ s.statusWord.getLsbD 1 = s.done ∧ s.statusWord.getLsbD 2 = s.ccmReq ∧
    s.statusWord.getLsbD 3 = false ∧ s.statusWord.getLsbD 20 = s.wrWhileBusy ∧
    s.statusWord.getLsbD 21 = s.cmdWhileBusy ∧ s.statusWord.getLsbD 22 = s.badCmd ∧
    s.statusWord.getLsbD 23 = s.busErr := by
  simp only [State.statusWord, BitVec.getLsbD_append]
  simp

theorem State.statusWord_fields (s : State) :
    s.statusWord.extractLsb' 4 4 = s.res.outcome.code ∧ s.statusWord.extractLsb' 8 8 = s.res.reason ∧
    s.statusWord.extractLsb' 16 4 = s.state ∧ s.statusWord.extractLsb' 24 8 = s.res.endOff := by
  simp (disch := decide) only [State.statusWord, BitVec.extractLsb'_append_eq_of_le,
    BitVec.extractLsb'_append_eq_of_add_le]
  simp

theorem Results.hdrInfoWord_flags (r : Results) :
    r.hdrInfoWord.getLsbD 8 = r.seqValid ∧ r.hdrInfoWord.getLsbD 9 = r.panValid ∧
    r.hdrInfoWord.getLsbD 10 = r.bcast ∧ r.hdrInfoWord.getLsbD 11 = r.fcValid ∧
    r.hdrInfoWord.getLsbD 24 = r.segValid ∧ r.hdrInfoWord.getLsbD 25 = r.nonceValid ∧
    r.hdrInfoWord.getLsbD 26 = r.hdrValid := by
  simp only [Results.hdrInfoWord, BitVec.getLsbD_append]
  simp

theorem Results.hdrInfoWord_fields (r : Results) :
    r.hdrInfoWord.extractLsb' 0 8 = r.seq ∧ r.hdrInfoWord.extractLsb' 12 2 = addrKindCode r.dstKind ∧
    r.hdrInfoWord.extractLsb' 14 2 = addrKindCode r.srcKind ∧ r.hdrInfoWord.extractLsb' 16 8 = r.hdrLen ∧
    r.hdrInfoWord.extractLsb' 27 5 = 0#5 := by
  simp (disch := decide) only [Results.hdrInfoWord, BitVec.extractLsb'_append_eq_of_le,
    BitVec.extractLsb'_append_eq_of_add_le]
  simp

theorem Results.seg0Word_fields (r : Results) :
    r.seg0Word.extractLsb' 0 8 = r.payOff ∧ r.seg0Word.extractLsb' 8 8 = r.payLen ∧
    r.seg0Word.extractLsb' 16 8 = r.ctLen ∧ r.seg0Word.extractLsb' 24 8 = r.adLen := by
  simp (disch := decide) only [Results.seg0Word, BitVec.extractLsb'_append_eq_of_le,
    BitVec.extractLsb'_append_eq_of_add_le]
  simp

theorem Results.seg1Word_fields (r : Results) :
    r.seg1Word.extractLsb' 0 8 = r.tagOff ∧ r.seg1Word.extractLsb' 8 8 = r.ctrOff ∧
    r.seg1Word.extractLsb' 16 16 = 0#16 := by
  simp (disch := decide) only [Results.seg1Word, BitVec.extractLsb'_append_eq_of_le,
    BitVec.extractLsb'_append_eq_of_add_le]
  simp

/-- Settles O27: the flags, the wider fields, and the code of each outcome. -/
theorem statusWordHoldsItsFields : Obligations.StatusWordHoldsItsFields := by
  intro s
  obtain ⟨hbusy, hdone, hreq, hzero, hwr, hcmd, hbad, hbus⟩ := s.statusWord_flags
  obtain ⟨houtcome, hreason, hstate, hend⟩ := s.statusWord_fields
  refine ⟨hbusy, hdone, hreq, hzero, houtcome, hreason, hstate, hwr, hcmd, hbad, hbus, hend, fun o => ?_⟩
  cases o <;> rfl

/-- Settles O28: the flags and the wider fields of HDRINFO, the fields of SEG0 and of SEG1, and the code of each kind. -/
theorem headerAndSegmentWordsHoldTheirFields : Obligations.HeaderAndSegmentWordsHoldTheirFields := by
  intro r
  obtain ⟨hseqValid, hpan, hbcast, hfc, hseg, hnonce, hhdr⟩ := r.hdrInfoWord_flags
  obtain ⟨hseq, hdst, hsrc, hlen, hzero⟩ := r.hdrInfoWord_fields
  refine ⟨⟨hseq, hseqValid, hpan, hbcast, hfc, hdst, hsrc, hlen, hseg, hnonce, hhdr, hzero⟩,
    r.seg0Word_fields, r.seg1Word_fields, fun k => ?_⟩
  cases k <;> rfl

end Sys2Proof.Machine
end

section
/-! What the block's step runs: the instruction of each state code, and the branches of S_DST, S_SRC and S_CCM_WAIT. -/

namespace Sys2Proof.Machine

/-- The state codes with a row of their own, and their rows (30_encoding.md R71). -/
theorem decodeFsm_cases {code : BitVec 4} {i : Instr} (h : decode (.fsm4 code) = .ok i) :
    code = FsmCode.idle ∧ i = .sIdle ∨ code = FsmCode.fc ∧ i = .sFc ∨ code = FsmCode.ack ∧ i = .sAck ∨
    code = FsmCode.seq ∧ i = .sSeq ∨ code = FsmCode.dst ∧ i = .sDst ∨ code = FsmCode.srcPan ∧ i = .sSrcPan ∨
    code = FsmCode.src ∧ i = .sSrc ∨ code = FsmCode.bound ∧ i = .sBound ∨ code = FsmCode.filter ∧ i = .sFilter ∨
    code = FsmCode.segment ∧ i = .sSegment ∨ code = FsmCode.nonce ∧ i = .sNonce ∨
    code = FsmCode.ccmWait ∧ i = .sCcmWait ∨ code = FsmCode.done ∧ i = .sDone := by
  simp only [decode, decodeFsm] at h
  split at h <;> cases h <;> simp

variable {s : State}

/-! S_DST and S_SRC by the mode of the captured frame-control word (42_addressing.md R131, R137). -/

theorem execSDst_none (h : classifyMode (fcDAM s.res.fcRaw) = some .none) :
    execSDst s = execDamNone s.res.fcRaw s := by simp only [execSDst, h]

theorem execSDst_short (h : classifyMode (fcDAM s.res.fcRaw) = some .short) :
    execSDst s = execDamShort s.res.fcRaw s := by simp only [execSDst, h]

theorem execSDst_long (h : classifyMode (fcDAM s.res.fcRaw) = some .long) :
    execSDst s = execDamLong s.res.fcRaw s := by simp only [execSDst, h]

theorem execSDst_reserved (h : classifyMode (fcDAM s.res.fcRaw) = none) :
    execSDst s = .refused .reservedAddressingMode := by simp only [execSDst, h]

theorem execSSrc_none (h : classifyMode (fcSAM s.res.fcRaw) = some .none) :
    execSSrc s = execSamNone s.res.fcRaw s := by simp only [execSSrc, h]

theorem execSSrc_short (h : classifyMode (fcSAM s.res.fcRaw) = some .short) :
    execSSrc s = execSamShort s.res.fcRaw s := by simp only [execSSrc, h]

theorem execSSrc_long (h : classifyMode (fcSAM s.res.fcRaw) = some .long) :
    execSSrc s = execSamLong s.res.fcRaw s := by simp only [execSSrc, h]

theorem execSSrc_reserved (h : classifyMode (fcSAM s.res.fcRaw) = none) :
    execSSrc s = .refused .reservedAddressingMode := by simp only [execSSrc, h]

/-- S_CCM_WAIT without an answer waits (44_segment_nonce.md R177). -/
theorem execSCcmWait_waits (h : s.ccmDone = none) : execSCcmWait s = .next s := by simp only [execSCcmWait, h]

/-- S_CCM_WAIT takes the answer presented to it (44_segment_nonce.md R177). -/
theorem execSCcmWait_answered {ok : Bool} (h : s.ccmDone = some ok) :
    execSCcmWait s = .next ((s.setCcmDone none).answerCcm ok) := by simp only [execSCcmWait, h]

end Sys2Proof.Machine
end

section
/-! The FSM sees the bytes below FRAME_LEN only (10_state.md R12): every operation of the block commutes with the
exchange of FRAME_BUF for another buffer that agrees there. -/

namespace Sys2Proof.Machine

/-- The same machine with another FRAME_BUF, its unwritten bytes those of another reset. -/
def State.withBuffer (s : State) (m : List Host.Cell) (e : Nat) : State := { s with frameBuf := m, epoch := e }

/-- The next state, where there is one, with another FRAME_BUF. -/
def answerWithBuffer (m : List Host.Cell) (e : Nat) : Answer → Answer
  | .next s => .next (s.withBuffer m e)
  | .fault r => .fault r
  | .refused r => .refused r

/-- The exchanged buffer holds the same bytes below FRAME_LEN. -/
def State.agreesBelow (s : State) (m : List Host.Cell) (e : Nat) : Prop :=
  ∀ a, a < s.frameLen.toNat → (s.withBuffer m e).frameByte a = s.frameByte a

variable {s : State} {m : List Host.Cell} {e : Nat}

@[simp] theorem State.withBuffer_res : (s.withBuffer m e).res = s.res := rfl

theorem State.readLe_withBuffer (h : s.agreesBelow m e) {a n : Nat} (hin : a + n ≤ s.frameLen.toNat) :
    (s.withBuffer m e).readLe a n = s.readLe a n :=
  State.readLe_of_bytes fun i _ hi => h i (by omega)

theorem State.counterBytes_withBuffer (h : s.agreesBelow m e) (hin : s.res.ctrOff.toNat + 4 ≤ s.frameLen.toNat) :
    (s.withBuffer m e).counterBytes = s.counterBytes := by
  have hbyte : ∀ k, k < 4 → (s.withBuffer m e).frameByte (s.res.ctrOff.toNat + k) =
      s.frameByte (s.res.ctrOff.toNat + k) := fun k hk => h _ (by omega)
  have hfirst := hbyte 0 (by decide)
  simp only [Nat.add_zero] at hfirst
  simp only [State.counterBytes, State.withBuffer_res, hfirst, hbyte 1, hbyte 2, hbyte 3, Nat.reduceLT]

/-- `need` compares OFF with FRAME_LEN and reads no byte. -/
theorem need_withBuffer {n : Nat} {code : BitVec 8} {k k' : Answer} (hk : k' = answerWithBuffer m e k) :
    need (s.withBuffer m e) n code k' = answerWithBuffer m e (need s n code k) := by
  rcases need_cases s n code k with ⟨hshort, heq⟩ | ⟨henough, heq⟩
  · rw [heq]; exact need_short code k' hshort
  · rw [heq, ← hk]; exact need_enough code k' henough

/-- `fsmRead` reads inside the frame or stops (20_memory.md R48). -/
theorem fsmRead_withBuffer (h : s.agreesBelow m e) {a n : Nat} {k k' : Nat → Answer}
    (hk : a + n ≤ s.frameLen.toNat → ∀ v, k' v = answerWithBuffer m e (k v)) :
    fsmRead (s.withBuffer m e) a n k' = answerWithBuffer m e (fsmRead s a n k) := by
  by_cases hin : a + n ≤ s.frameLen.toNat
  · calc fsmRead (s.withBuffer m e) a n k'
        = k' ((s.withBuffer m e).readLe a n) := fsmRead_inside k' hin
      _ = answerWithBuffer m e (k (s.readLe a n)) := by rw [State.readLe_withBuffer h hin, hk hin]
      _ = answerWithBuffer m e (fsmRead s a n k) := by rw [fsmRead_inside k hin]
  · rw [fsmRead_outside k (Nat.lt_of_not_le hin)]
    exact fsmRead_outside k' (Nat.lt_of_not_le hin)

/-- A rule that branches on what both machines hold. -/
theorem ite_withBuffer {c : Prop} [Decidable c] {x y x' y' : Answer} (hx : x' = answerWithBuffer m e x)
    (hy : y' = answerWithBuffer m e y) : (if c then x' else y') = answerWithBuffer m e (if c then x else y) := by
  rw [hx, hy, apply_ite (answerWithBuffer m e)]

/-! One lemma per state of the FSM. -/

theorem runFrameControl_withBuffer (fc : BitVec 16) :
    runFrameControl fc (s.withBuffer m e) = answerWithBuffer m e (runFrameControl fc s) := by
  unfold runFrameControl
  cases classifyFc fc <;> rfl

theorem execSFc_withBuffer (h : s.agreesBelow m e) :
    execSFc (s.withBuffer m e) = answerWithBuffer m e (execSFc s) :=
  ite_withBuffer rfl (fsmRead_withBuffer h fun _ _ => runFrameControl_withBuffer _)

theorem execSAck_withBuffer (h : s.agreesBelow m e) :
    execSAck (s.withBuffer m e) = answerWithBuffer m e (execSAck s) :=
  ite_withBuffer (fsmRead_withBuffer h fun _ _ => rfl) rfl

theorem execSSeq_withBuffer (h : s.agreesBelow m e) :
    execSSeq (s.withBuffer m e) = answerWithBuffer m e (execSSeq s) :=
  need_withBuffer (fsmRead_withBuffer h fun _ _ => rfl)

theorem readDstPan_withBuffer (h : s.agreesBelow m e) {k : State → Answer}
    (hk : ∀ p, k ((s.takeDstPan p).withBuffer m e) = answerWithBuffer m e (k (s.takeDstPan p))) :
    readDstPan (s.withBuffer m e) k = answerWithBuffer m e (readDstPan s k) :=
  need_withBuffer (fsmRead_withBuffer h fun _ => hk)

theorem readDstAddr_withBuffer (h : s.agreesBelow m e) {kind : AddrKind} {n : Nat} {k : State → Answer}
    (hk : ∀ a, k ((s.takeDstAddr kind a n).withBuffer m e) = answerWithBuffer m e (k (s.takeDstAddr kind a n))) :
    readDstAddr (s.withBuffer m e) kind n k = answerWithBuffer m e (readDstAddr s kind n k) :=
  need_withBuffer (fsmRead_withBuffer h fun _ => hk)

theorem readSrcAddr_withBuffer (h : s.agreesBelow m e) (kind : AddrKind) (n : Nat) :
    readSrcAddr (s.withBuffer m e) kind n = answerWithBuffer m e (readSrcAddr s kind n) :=
  need_withBuffer (fsmRead_withBuffer h fun _ _ => rfl)

/-- The read of the PAN leaves FRAME_BUF and FRAME_LEN as they are. -/
theorem State.agreesBelow.takeDstPan (h : s.agreesBelow m e) (p : Nat) : (s.takeDstPan p).agreesBelow m e := h

theorem execDamShort_withBuffer (h : s.agreesBelow m e) (fc : BitVec 16) :
    execDamShort fc (s.withBuffer m e) = answerWithBuffer m e (execDamShort fc s) :=
  readDstPan_withBuffer h fun p => readDstAddr_withBuffer (h.takeDstPan p) fun _ =>
    ite_withBuffer rfl rfl

theorem execDamLong_withBuffer (h : s.agreesBelow m e) (fc : BitVec 16) :
    execDamLong fc (s.withBuffer m e) = answerWithBuffer m e (execDamLong fc s) :=
  readDstPan_withBuffer h fun p => readDstAddr_withBuffer (h.takeDstPan p) fun _ => rfl

theorem execSDst_withBuffer (h : s.agreesBelow m e) :
    execSDst (s.withBuffer m e) = answerWithBuffer m e (execSDst s) := by
  rcases hmode : classifyMode (fcDAM s.res.fcRaw) with _ | kind
  · rw [execSDst_reserved hmode, execSDst_reserved (s := s.withBuffer m e) hmode]; rfl
  · cases kind with
    | none => rw [execSDst_none hmode, execSDst_none (s := s.withBuffer m e) hmode]; rfl
    | short =>
      rw [execSDst_short hmode, execSDst_short (s := s.withBuffer m e) hmode]
      exact execDamShort_withBuffer h _
    | long =>
      rw [execSDst_long hmode, execSDst_long (s := s.withBuffer m e) hmode]
      exact execDamLong_withBuffer h _

theorem execSSrcPan_withBuffer (h : s.agreesBelow m e) :
    execSSrcPan (s.withBuffer m e) = answerWithBuffer m e (execSSrcPan s) :=
  need_withBuffer (fsmRead_withBuffer h fun _ _ => rfl)

theorem execSSrc_withBuffer (h : s.agreesBelow m e) :
    execSSrc (s.withBuffer m e) = answerWithBuffer m e (execSSrc s) := by
  rcases hmode : classifyMode (fcSAM s.res.fcRaw) with _ | kind
  · rw [execSSrc_reserved hmode, execSSrc_reserved (s := s.withBuffer m e) hmode]; rfl
  · cases kind with
    | none => rw [execSSrc_none hmode, execSSrc_none (s := s.withBuffer m e) hmode]; rfl
    | short =>
      rw [execSSrc_short hmode, execSSrc_short (s := s.withBuffer m e) hmode]
      exact readSrcAddr_withBuffer h _ _
    | long =>
      rw [execSSrc_long hmode, execSSrc_long (s := s.withBuffer m e) hmode]
      exact readSrcAddr_withBuffer h _ _

theorem execSBound_withBuffer : execSBound (s.withBuffer m e) = answerWithBuffer m e (execSBound s) :=
  need_withBuffer rfl

theorem execSFilter_withBuffer : execSFilter (s.withBuffer m e) = answerWithBuffer m e (execSFilter s) :=
  ite_withBuffer rfl (ite_withBuffer rfl rfl)

theorem execSSegment_withBuffer (h : s.agreesBelow m e) :
    execSSegment (s.withBuffer m e) = answerWithBuffer m e (execSSegment s) :=
  ite_withBuffer rfl (fsmRead_withBuffer h fun _ _ => rfl)

theorem execSNonce_withBuffer (h : s.agreesBelow m e) :
    execSNonce (s.withBuffer m e) = answerWithBuffer m e (execSNonce s) := by
  refine ite_withBuffer rfl (fsmRead_withBuffer h fun hin _ => ?_)
  simp only [State.takeNonce, State.counterBytes_withBuffer h hin]
  rfl

theorem State.answerCcm_withBuffer (ok : Bool) : (s.withBuffer m e).answerCcm ok = (s.answerCcm ok).withBuffer m e := by
  by_cases hwait : s.state = FsmCode.ccmWait
  · rw [State.answerCcm_taken ok hwait, State.answerCcm_taken (s := s.withBuffer m e) ok hwait]; rfl
  · rw [State.answerCcm_ignored ok hwait, State.answerCcm_ignored (s := s.withBuffer m e) ok hwait]

theorem execSCcmWait_withBuffer : execSCcmWait (s.withBuffer m e) = answerWithBuffer m e (execSCcmWait s) := by
  rcases hdone : s.ccmDone with _ | ok
  · rw [execSCcmWait_waits hdone, execSCcmWait_waits (s := s.withBuffer m e) hdone]; rfl
  · rw [execSCcmWait_answered hdone, execSCcmWait_answered (s := s.withBuffer m e) hdone]
    exact congrArg Host.Outcome.next (State.answerCcm_withBuffer (s := s.setCcmDone none) ok)

/-- The instruction of any state of the FSM, run on two machines whose frames agree. -/
theorem exec_fsm_withBuffer {i : Instr} (hi : decode (.fsm4 s.state) = .ok i) (h : s.agreesBelow m e) :
    exec i (s.withBuffer m e) = answerWithBuffer m e (exec i s) := by
  rcases decodeFsm_cases hi with ⟨-, rfl⟩ | ⟨-, rfl⟩ | ⟨-, rfl⟩ | ⟨-, rfl⟩ | ⟨-, rfl⟩ | ⟨-, rfl⟩ | ⟨-, rfl⟩ | ⟨-, rfl⟩ |
    ⟨-, rfl⟩ | ⟨-, rfl⟩ | ⟨-, rfl⟩ | ⟨-, rfl⟩ | ⟨-, rfl⟩
  · rfl
  · exact execSFc_withBuffer h
  · exact execSAck_withBuffer h
  · exact execSSeq_withBuffer h
  · exact execSDst_withBuffer h
  · exact execSSrcPan_withBuffer h
  · exact execSSrc_withBuffer h
  · exact execSBound_withBuffer
  · exact execSFilter_withBuffer
  · exact execSSegment_withBuffer h
  · exact execSNonce_withBuffer h
  · exact execSCcmWait_withBuffer
  · rfl

/-- The block's own step, when no turn is listed. -/
theorem step_withBuffer (ht : s.turns = []) (h : s.agreesBelow m e) :
    step (s.withBuffer m e) = answerWithBuffer m e (step s) := by
  cases hj : decode (.fsm4 s.state) with
  | error err => rw [step_undecoded hj, step_undecoded (s := s.withBuffer m e) hj]; rfl
  | ok j =>
    cases hb : s.busy with
    | true =>
      rw [step_unlisted_busy hj ht hb, step_unlisted_busy (s := s.withBuffer m e) hj ht hb]
      exact exec_fsm_withBuffer hj h
    | false =>
      rw [step_unlisted_resting hj ht hb, step_unlisted_resting (s := s.withBuffer m e) hj ht hb]; rfl

/-- Settles O56: `step` commutes with the exchange of the buffer. That the FSM never reads at or beyond FRAME_LEN is
checked by `fsmRead` itself, so the argument needs no invariant. -/
theorem bytesBeyondTheFrameNeverMatter : Obligations.BytesBeyondTheFrameNeverMatter := by
  intro s t m e _ ht hagree hstep
  calc step (s.withBuffer m e) = answerWithBuffer m e (step s) := step_withBuffer ht hagree
    _ = .next (t.withBuffer m e) := by rw [hstep]; rfl

end Sys2Proof.Machine
end

section
/-! The results of a parse, one operation at a time: each operation of the FSM keeps a valid bit in agreement with its
field, an address in agreement with its kind, and HDR_LEN in agreement with 30_encoding.md R67. -/

namespace Sys2Proof.Machine

/-- The clauses of `ResultInv` that speak of the result set alone, whatever STATE and OUTCOME are. -/
structure FieldsInv (r : Results) : Prop where
  fc : r.fcValid = false → r.fcRaw = 0#16
  seq : r.seqValid = false → r.seq = 0#8
  pan : r.panValid = false → r.panId = 0#16
  hdr : r.hdrValid = false → r.hdrLen = 0#8
  seg : r.segValid = false → r.ctLen = 0#8 ∧ r.tagOff = 0#8 ∧ r.ctrOff = 0#8 ∧ r.frameCounter = 0#32
  nonce : r.nonceValid = false → r.nonce = Vector.replicate 13 0#8
  dst : r.dstKind = .none → r.dstAddr = 0#64
  src : r.srcKind = .none → r.srcAddr = 0#64
  bcast : r.bcast = true → r.dstKind = .short ∧ r.dstAddr = BitVec.allOnes 64
  hdrLen : r.hdrValid = true → r.hdrLen.toNat = headerLength r.fcRaw r.bcast

theorem ResultInv.fields {s : State} (h : ResultInv s) : FieldsInv s.res := { h with }

theorem FieldsInv.reset : FieldsInv Results.reset := by constructor <;> decide

variable {s : State}

theorem FieldsInv.captureFc (h : FieldsInv s.res) (hhdr : s.res.hdrValid = false) (fc : BitVec 16) :
    FieldsInv (s.captureFc fc).res :=
  { h with fc := nofun, hdrLen := fun hv => absurd (hhdr.symm.trans hv) nofun }

theorem FieldsInv.takeSeq (h : FieldsInv s.res) (b : Nat) : FieldsInv (s.takeSeq b).res := { h with seq := nofun }

theorem FieldsInv.takeDstPan (h : FieldsInv s.res) (p : Nat) : FieldsInv (s.takeDstPan p).res := { h with pan := nofun }

theorem FieldsInv.takeSrcPan (h : FieldsInv s.res) (hpan : s.res.panValid = true) (p : Nat) :
    FieldsInv (s.takeSrcPan p).res :=
  { h with pan := fun hv => absurd (hpan.symm.trans hv) nofun }

theorem FieldsInv.takeNoDst (h : FieldsInv s.res) (hkind : s.res.dstKind = .none) : FieldsInv s.takeNoDst.res :=
  { h with dst := fun _ => h.dst hkind, bcast := fun hv => absurd (hkind.symm.trans (h.bcast hv).1) nofun }

theorem FieldsInv.takeDstAddr (h : FieldsInv s.res) (hbcast : s.res.bcast = false) {kind : AddrKind}
    (hkind : kind ≠ .none) (a n : Nat) : FieldsInv (s.takeDstAddr kind a n).res :=
  { h with dst := fun hk => absurd hk hkind, bcast := fun hv => absurd (hbcast.symm.trans hv) nofun }

theorem FieldsInv.takeBroadcast (h : FieldsInv s.res) (hkind : s.res.dstKind = .short) (hhdr : s.res.hdrValid = false) :
    FieldsInv s.takeBroadcast.res :=
  { h with
    dst := fun hk => absurd (hkind.symm.trans hk) nofun
    bcast := fun _ => ⟨hkind, rfl⟩
    hdrLen := fun hv => absurd (hhdr.symm.trans hv) nofun }

theorem FieldsInv.takeNoSrc (h : FieldsInv s.res) (hkind : s.res.srcKind = .none) : FieldsInv s.takeNoSrc.res :=
  { h with src := fun _ => h.src hkind }

theorem FieldsInv.takeSrcAddr (h : FieldsInv s.res) {kind : AddrKind} (hkind : kind ≠ .none) (a n : Nat) :
    FieldsInv (s.takeSrcAddr kind a n).res :=
  { h with src := fun hk => absurd hk hkind }

theorem FieldsInv.takeHdrLen (h : FieldsInv s.res) (hoff : s.off.toNat = headerLength s.res.fcRaw s.res.bcast) :
    FieldsInv s.takeHdrLen.res :=
  { h with hdr := nofun, hdrLen := fun _ => hoff }

theorem FieldsInv.takePayload (h : FieldsInv s.res) : FieldsInv s.takePayload.res := { h with }

theorem FieldsInv.takeSegments (h : FieldsInv s.res) (c : Nat) : FieldsInv (s.takeSegments c).res :=
  { h with seg := nofun }

theorem FieldsInv.takeNonce (h : FieldsInv s.res) : FieldsInv s.takeNonce.res := { h with nonce := nofun }

end Sys2Proof.Machine
end

section
/-! The two ways a step of the FSM goes on from a running parse: to a state of the parse, or to its end. -/

namespace Sys2Proof.Machine

variable {s : State}

/-- `ProgressInv` in a state whose code is known: only the clauses about that code are to be shown, the others are
about other codes. -/
theorem ProgressInv.at_code (code : BitVec 4) (hcode : s.state = code)
    (bound : s.busy = true → s.off.toNat ≤ s.frameLen.toNat)
    (atFc : code = FsmCode.fc → s.off = 0#8 ∧ s.res = Results.reset := by nofun)
    (atAck : code = FsmCode.ack → s.off = 2#8 := by nofun)
    (atSeq : code = FsmCode.seq → s.off = 2#8 := by nofun)
    (atDst : code = FsmCode.dst → s.off = 3#8 := by nofun)
    (atSrcPan : code = FsmCode.srcPan →
      s.off = 7#8 ∧ s.res.bcast = true ∧ fcDAM s.res.fcRaw = 2#2 ∧ s.res.panValid = true := by nofun)
    (atSrc : code = FsmCode.src → s.off.toNat = 3 + dstBytes s.res.fcRaw + srcPanBytes s.res.bcast := by nofun)
    (modes : readingHeader code = true →
      s.res.fcValid = true ∧ fcDAM s.res.fcRaw ≠ 1#2 ∧ fcSAM s.res.fcRaw ≠ 1#2 := by nofun)
    (freshHdr : s.busy = true → pastHeader code = false → s.res.hdrValid = false := by nofun)
    (freshSeg : s.busy = true → pastSegment code = false → s.res.segValid = false := by nofun)
    (freshNonce : s.busy = true → code ≠ FsmCode.ccmWait → s.res.nonceValid = false := by nofun)
    (early : code = FsmCode.seq ∨ code = FsmCode.dst →
      s.res.bcast = false ∧ s.res.dstKind = .none ∧ s.res.panValid = false := by nofun)
    (noSource : readingHeader code = true → s.res.srcKind = .none := by nofun)
    (header : pastHeader code = true →
      s.res.hdrValid = true ∧ s.res.hdrLen = s.off ∧ s.off.toNat = headerLength s.res.fcRaw s.res.bcast := by nofun)
    (payload : pastBound code = true → s.res.payOff = s.off ∧ s.res.adLen = s.off ∧
      s.off.toNat + s.res.payLen.toNat + 2 = s.frameLen.toNat := by nofun)
    (pan : pastFilter code = true → s.res.panValid = true ∧ s.res.panId = s.cfgPan := by nofun)
    (segments : pastSegment code = true →
      s.res.segValid = true ∧ 8 ≤ s.res.payLen.toNat ∧ s.res.ctLen.toNat + 8 = s.res.payLen.toNat ∧
      s.res.tagOff.toNat = s.off.toNat + s.res.ctLen.toNat ∧ s.res.ctrOff.toNat = s.res.tagOff.toNat + 4 ∧
      s.res.frameCounter = BitVec.ofNat 32 (s.readLe s.res.ctrOff.toNat 4) := by nofun)
    (wait : code = FsmCode.ccmWait →
      s.res.srcKind = .long ∧ s.res.nonceValid = true ∧
      s.res.nonce = buildNonce Config.nonceAddrOrder Config.noncePad s.counterBytes s.res.srcAddr := by nofun) :
    ProgressInv s := by
  subst hcode
  exact { bound, atFc, atAck, atSeq, atDst, atSrcPan, atSrc, modes, freshHdr, freshSeg, freshNonce, early, noSource,
          header, payload, pan, segments, wait }

/-- At rest no parse runs, and no clause of `ProgressInv` applies (10_state.md R30). -/
theorem ProgressInv.resting (hbusy : s.busy = false) (hstate : s.state = FsmCode.idle ∨ s.state = FsmCode.done) :
    ProgressInv s := by
  have hrest : s.busy ≠ true := by simp [hbusy]
  rcases hstate with hidle | hdone
  · exact .at_code FsmCode.idle hidle (fun hb => absurd hb hrest) (freshHdr := fun hb => absurd hb hrest)
      (freshSeg := fun hb => absurd hb hrest) (freshNonce := fun hb => absurd hb hrest)
  · exact .at_code FsmCode.done hdone (fun hb => absurd hb hrest) (freshHdr := fun hb => absurd hb hrest)
      (freshSeg := fun hb => absurd hb hrest) (freshNonce := fun hb => absurd hb hrest)

/-- A parse that runs, whatever state it is in: the parts of the invariant that do not speak of STATE. -/
structure Parsing (s : State) : Prop where
  memory : Memory.wf s.frameBuf = true
  config : s.cfgPanWritten = false → s.cfgPan = 0x0000#16
  busy : s.busy = true
  done : s.done = false
  ccmReq : s.ccmReq = false
  ccmDone : s.ccmDone = none
  fields : FieldsInv s.res
  pending : s.res.outcome = .none ∧ s.res.reason = 0#8 ∧ s.res.endOff = 0#8

/-- The invariant in a state of the FSM that is not at rest; CCM_REQ falls with the request's end. -/
theorem Inv.parsing_lowered (h : Inv s) {code : BitVec 4} (hs : s.state = code)
    (hcode : code ≠ FsmCode.idle ∧ code ≠ FsmCode.done := by decide) : Parsing (s.setCcmReq false) := by
  obtain ⟨hidle, hdone⟩ := hcode
  have hbusy : s.busy = true := by rw [h.status.busy, hs]; simp [hidle, hdone]
  have hnot : s.done = false := by rw [h.status.done, hs]; simpa using hdone
  exact ⟨h.memory, h.config, hbusy, hnot, rfl, h.status.ccmDone, h.results.fields, h.results.running hnot⟩

/-- The invariant in a state of the FSM where the block has a step of its own. -/
theorem Inv.parsing (h : Inv s) {code : BitVec 4} (hs : s.state = code)
    (hcode : code ≠ FsmCode.idle ∧ code ≠ FsmCode.done := by decide) (hwait : code ≠ FsmCode.ccmWait := by decide) :
    Parsing s :=
  { h.parsing_lowered hs hcode with ccmReq := by rw [h.status.ccmReq, hs]; simpa using hwait }

/-- A running parse has no outcome, so the clauses of `ResultInv` about its end say nothing. -/
theorem Parsing.results (h : Parsing s) (hidle : s.state ≠ FsmCode.idle) : ResultInv s :=
  { h.fields with
    running := fun _ => h.pending
    ended := fun hd => absurd (h.done.symm.trans hd) nofun
    idle := fun hi => absurd hi hidle
    verdict := fun ho => by simp [h.pending.1] at ho
    miss := fun ho => by simp [h.pending.1] at ho
    ack := fun ho => by simp [h.pending.1] at ho }

/-- The parse goes on in another state. -/
theorem Parsing.goto (h : Parsing s) {code : BitVec 4} (hp : ProgressInv (s.goto code))
    (hlegal : stateLegal code = true := by decide)
    (hcode : code ≠ FsmCode.idle ∧ code ≠ FsmCode.done ∧ code ≠ FsmCode.ccmWait := by decide) : Inv (s.goto code) := by
  obtain ⟨hidle, hdone, hwait⟩ := hcode
  have hgo : Parsing (s.goto code) := { h with }
  refine ⟨h.memory, ⟨hlegal, ?_, ?_, ?_, h.ccmDone⟩, hgo.results hidle, hp, h.config⟩
  · exact h.busy.trans (by simpa using ⟨hidle, hdone⟩)
  · exact h.done.trans (by simpa using hdone)
  · exact h.ccmReq.trans (by simpa using hwait)

/-- The parse goes on to S_CCM_WAIT, with the request raised (44_segment_nonce.md R173). -/
theorem Parsing.request (h : Parsing s) (hp : ProgressInv ((s.setCcmReq true).goto FsmCode.ccmWait)) :
    Inv ((s.setCcmReq true).goto FsmCode.ccmWait) :=
  have hgo : Parsing (s.goto FsmCode.ccmWait) := { h with }
  ⟨h.memory, ⟨rfl, h.busy, h.done, rfl, h.ccmDone⟩, { hgo.results nofun with }, hp, h.config⟩

/-- The parse ends (00_scope.md R8): what the invariant asks of the outcome is all there is to show. -/
theorem Parsing.finish (h : Parsing s) {o : ParseOutcome} (r : BitVec 8) (ho : o ≠ .none := by nofun)
    (verdict : o = .okData ∨ o = .authError → s.res.nonceValid = true := by nofun)
    (miss : o = .filterMiss → s.res.segValid = false ∧ s.res.nonceValid = false := by nofun)
    (ack : o = .okAck → s.res.hdrValid = false := by nofun) : Inv (s.finish o r) where
  memory := h.memory
  status := ⟨rfl, rfl, rfl, h.ccmReq, h.ccmDone⟩
  results := { h.fields with running := nofun, ended := fun _ => ho, idle := nofun, verdict, miss, ack }
  progress := .resting rfl (.inr rfl)
  config := h.config

end Sys2Proof.Machine
end

section
/-! The states of the FSM, one lemma each: where the invariant holds and STATE has the state's code, its instruction keeps
the invariant. -/

namespace Sys2Proof.Machine

/-- Where the answer is a next state, it meets the invariant. -/
def KeepsInv (a : Answer) : Prop := ∀ t, a = .next t → Inv t

variable {s : State}

theorem KeepsInv.next (h : Inv s) : KeepsInv (.next s) := by
  rintro _ ⟨⟩
  exact h

theorem KeepsInv.fault (r : Fault) : KeepsInv (.fault r) := by
  rintro _ ⟨⟩

theorem KeepsInv.refused (r : Refusal) : KeepsInv (.refused r) := by
  rintro _ ⟨⟩

/-- `need` ends the parse or goes on with the bytes inside the frame. -/
theorem KeepsInv.need (h : Parsing s) {n : Nat} {code : BitVec 8} {k : Answer}
    (hk : s.off.toNat + n ≤ s.frameLen.toNat → KeepsInv k) : KeepsInv (need s n code k) := by
  rcases need_cases s n code k with ⟨-, heq⟩ | ⟨henough, heq⟩
  · rw [heq]; exact .next (h.finish code)
  · rw [heq]; exact hk henough

theorem KeepsInv.fsmRead {a n : Nat} {k : Nat → Answer}
    (hk : a + n ≤ s.frameLen.toNat → KeepsInv (k (s.readLe a n))) : KeepsInv (fsmRead s a n k) := by
  by_cases hin : a + n ≤ s.frameLen.toNat
  · rw [fsmRead_inside k hin]; exact hk hin
  · rw [fsmRead_outside k (Nat.lt_of_not_le hin)]; exact .fault _

theorem KeepsInv.ite {c : Prop} [Decidable c] {a b : Answer} (ha : c → KeepsInv a) (hb : ¬ c → KeepsInv b) :
    KeepsInv (if c then a else b) := by
  split
  · next h => exact ha h
  · next h => exact hb h

/-! ## S_FC and S_ACK (41_frame_control.md) -/

/-- A cascade of checks that answers what its first check does not: the check passes. -/
theorem check_passes {α : Type} {c : Prop} [Decidable c] {a b x : α} (h : (if c then a else b) = x) (ha : a ≠ x) :
    ¬ c ∧ b = x := by
  split at h
  · exact absurd h ha
  · next hc => exact ⟨hc, h⟩

/-- Only a word with legal modes is read as a data frame (R117, R118). -/
theorem modes_of_ftData {fc : BitVec 16} (h : classifyFc fc = .ftData) : fcDAM fc ≠ 1#2 ∧ fcSAM fc ≠ 1#2 := by
  obtain ⟨-, hsns⟩ := check_passes h nofun
  obtain ⟨-, hiep⟩ := check_passes hsns nofun
  obtain ⟨-, hversion1⟩ := check_passes hiep nofun
  obtain ⟨-, hversion2⟩ := check_passes hversion1 nofun
  obtain ⟨-, hversion3⟩ := check_passes hversion2 nofun
  obtain ⟨-, hmodes⟩ := check_passes hversion3 nofun
  obtain ⟨hdam, hsource⟩ := check_passes hmodes nofun
  obtain ⟨hsam, -⟩ := check_passes hsource nofun
  exact ⟨hdam, hsam⟩

/-- The row of any frame-control word, at the start of a parse. -/
theorem keepsInv_runFrameControl (h : Inv s) (hs : s.state = FsmCode.fc) (hlen : 2 ≤ s.frameLen.toNat) (fc : BitVec 16) :
    KeepsInv (runFrameControl fc s) := by
  obtain ⟨hoff, hres⟩ := h.progress.atFc hs
  have hp := h.parsing hs
  have hcap : Parsing (s.captureFc fc) := { hp with fields := hp.fields.captureFc (by rw [hres]; rfl) fc }
  have hhdr : (s.captureFc fc).res.hdrValid = false := by simp [hres]
  have hseg : (s.captureFc fc).res.segValid = false := by simp [hres]
  have hnonce : (s.captureFc fc).res.nonceValid = false := by simp [hres]
  unfold runFrameControl
  cases hc : classifyFc fc with
  | rejReservedBit | rejSeqSuppression | rejIePresent | rejVersion1 | rejVersion2 | rejVersion3 | rejDstModeReserved
  | rejSrcModeReserved => exact .next (hcap.finish _)
  | ftBeacon | ftMacCommand | ftReserved | ftMultipurpose | ftFragment | ftExtended => exact .next (hcap.finish _)
  | ftAck =>
    exact .next (hcap.goto (.at_code FsmCode.ack rfl (fun _ => hlen) (atAck := fun _ => rfl)
      (freshHdr := fun _ _ => hhdr) (freshSeg := fun _ _ => hseg) (freshNonce := fun _ _ => hnonce)))
  | ftData =>
    exact .next (hcap.goto (.at_code FsmCode.seq rfl (fun _ => hlen) (atSeq := fun _ => rfl)
      (modes := fun _ => ⟨rfl, modes_of_ftData hc⟩) (freshHdr := fun _ _ => hhdr) (freshSeg := fun _ _ => hseg)
      (freshNonce := fun _ _ => hnonce) (early := fun _ => by simp [hres]) (noSource := fun _ => by simp [hres])))

theorem keepsInv_sFc (h : Inv s) (hs : s.state = FsmCode.fc) : KeepsInv (execSFc s) :=
  .ite (fun _ => .next ((h.parsing hs).finish _)) fun hlen =>
    .fsmRead fun _ => keepsInv_runFrameControl h hs (Nat.le_of_not_lt hlen) _

theorem keepsInv_sAck (h : Inv s) (hs : s.state = FsmCode.ack) : KeepsInv (execSAck s) := by
  have hp := h.parsing hs
  have hhdr : s.res.hdrValid = false := h.progress.freshHdr hp.busy (by rw [hs]; rfl)
  have hseq : ∀ b, Parsing (s.takeSeq b) := fun b => { hp with fields := hp.fields.takeSeq b }
  exact .ite (fun _ => .fsmRead fun _ => .next ((hseq _).finish _ (ack := fun _ => hhdr)))
    fun _ => .next (hp.finish _ (ack := fun _ => hhdr))

/-! ## S_SEQ to S_SRC (42_addressing.md) -/

/-- What every state from S_SEQ to S_SRC has in common: legal modes, no source yet, and nothing that a later state
writes. -/
structure Reading (s : State) : Prop where
  modes : s.res.fcValid = true ∧ fcDAM s.res.fcRaw ≠ 1#2 ∧ fcSAM s.res.fcRaw ≠ 1#2
  noSource : s.res.srcKind = .none
  freshHdr : s.res.hdrValid = false
  freshSeg : s.res.segValid = false
  freshNonce : s.res.nonceValid = false

theorem Reading.takeDstPan (h : Reading s) (p : Nat) : Reading (s.takeDstPan p) := { h with }

theorem Reading.takeDstAddr (h : Reading s) (kind : AddrKind) (a n : Nat) : Reading (s.takeDstAddr kind a n) := { h with }

theorem Inv.reading (h : Inv s) {code : BitVec 4} (hs : s.state = code) (hcode : readingHeader code = true := by decide) :
    Reading s := by
  have hphase : ∀ c, readingHeader c = true → c ≠ FsmCode.idle ∧ c ≠ FsmCode.done ∧ c ≠ FsmCode.ccmWait ∧
      pastHeader c = false ∧ pastSegment c = false := by decide
  subst hs
  obtain ⟨hidle, hdone, hwait, hhdr, hseg⟩ := hphase _ hcode
  have hbusy := (h.parsing rfl ⟨hidle, hdone⟩ hwait).busy
  exact ⟨h.progress.modes hcode, h.progress.noSource hcode, h.progress.freshHdr hbusy hhdr, h.progress.freshSeg hbusy hseg,
    h.progress.freshNonce hbusy hwait⟩

/-- S_SRC is entered with OFF past the destination fields and the broadcast source PAN (30_encoding.md R67). -/
theorem Parsing.goto_src (hp : Parsing s) (hr : Reading s)
    (hoff : s.off.toNat = 3 + dstBytes s.res.fcRaw + srcPanBytes s.res.bcast)
    (hlen : s.off.toNat ≤ s.frameLen.toNat) : Inv (s.goto FsmCode.src) :=
  hp.goto (.at_code FsmCode.src rfl (fun _ => hlen) (atSrc := fun _ => hoff) (modes := fun _ => hr.modes)
    (freshHdr := fun _ _ => hr.freshHdr) (freshSeg := fun _ _ => hr.freshSeg) (freshNonce := fun _ _ => hr.freshNonce)
    (noSource := fun _ => hr.noSource))

/-- S_BOUND is entered with HDR_LEN taken at OFF (42_addressing.md R141). -/
theorem Parsing.goto_bound (hp : Parsing s) (hseg : s.res.segValid = false) (hnonce : s.res.nonceValid = false)
    (hoff : s.off.toNat = headerLength s.res.fcRaw s.res.bcast) (hlen : s.off.toNat ≤ s.frameLen.toNat) :
    Inv (s.takeHdrLen.goto FsmCode.bound) :=
  have htake : Parsing s.takeHdrLen := { hp with fields := hp.fields.takeHdrLen hoff }
  htake.goto (.at_code FsmCode.bound rfl (fun _ => hlen) (freshSeg := fun _ _ => hseg) (freshNonce := fun _ _ => hnonce)
    (header := fun _ => ⟨rfl, rfl, hoff⟩))

theorem keepsInv_sSeq (h : Inv s) (hs : s.state = FsmCode.seq) : KeepsInv (execSSeq s) := by
  have hp := h.parsing hs
  have hr := h.reading hs
  have hoff := h.progress.atSeq hs
  refine .need hp fun hlen => .fsmRead fun _ => .next ?_
  have hseq : ∀ b, Parsing (s.takeSeq b) := fun b => { hp with fields := hp.fields.takeSeq b }
  rw [hoff] at hlen
  exact (hseq _).goto (.at_code FsmCode.dst rfl (fun _ => hlen) (atDst := fun _ => rfl) (modes := fun _ => hr.modes)
    (freshHdr := fun _ _ => hr.freshHdr) (freshSeg := fun _ _ => hr.freshSeg) (freshNonce := fun _ _ => hr.freshNonce)
    (early := fun _ => h.progress.early (.inl hs)) (noSource := fun _ => hr.noSource))

/-! The lengths of the address fields by mode (30_encoding.md R66). -/

theorem dstBytes_none {fc : BitVec 16} (h : classifyMode (fcDAM fc) = some .none) : dstBytes fc = 0 := by
  simp only [dstBytes, h]

theorem dstBytes_short {fc : BitVec 16} (h : classifyMode (fcDAM fc) = some .short) : dstBytes fc = 4 := by
  simp only [dstBytes, h]

theorem dstBytes_long {fc : BitVec 16} (h : classifyMode (fcDAM fc) = some .long) : dstBytes fc = 10 := by
  simp only [dstBytes, h]

theorem srcBytes_none {fc : BitVec 16} (h : classifyMode (fcSAM fc) = some .none) : srcBytes fc = 0 := by
  simp only [srcBytes, h]

theorem srcBytes_short {fc : BitVec 16} (h : classifyMode (fcSAM fc) = some .short) : srcBytes fc = 2 := by
  simp only [srcBytes, h]

theorem srcBytes_long {fc : BitVec 16} (h : classifyMode (fcSAM fc) = some .long) : srcBytes fc = 8 := by
  simp only [srcBytes, h]

theorem classifyMode_short {mode : BitVec 2} (h : classifyMode mode = some .short) : mode = 2#2 := by
  revert mode; decide

/-! The rows of S_DST and S_SRC. -/

theorem KeepsInv.readDstPan (hp : Parsing s) {k : State → Answer}
    (hk : s.off.toNat + 2 ≤ s.frameLen.toNat → ∀ p, Parsing (s.takeDstPan p) → KeepsInv (k (s.takeDstPan p))) :
    KeepsInv (readDstPan s k) :=
  .need hp fun hlen => .fsmRead fun _ => hk hlen _ { hp with fields := hp.fields.takeDstPan _ }

theorem KeepsInv.readDstAddr (hp : Parsing s) (hbcast : s.res.bcast = false) {kind : AddrKind} (hkind : kind ≠ .none)
    {n : Nat} {k : State → Answer}
    (hk : s.off.toNat + n ≤ s.frameLen.toNat → ∀ a, Parsing (s.takeDstAddr kind a n) →
      KeepsInv (k (s.takeDstAddr kind a n))) :
    KeepsInv (readDstAddr s kind n k) :=
  .need hp fun hlen => .fsmRead fun _ => hk hlen _ { hp with fields := hp.fields.takeDstAddr hbcast hkind _ _ }

theorem keepsInv_damNone (h : Inv s) (hs : s.state = FsmCode.dst) (hmode : classifyMode (fcDAM s.res.fcRaw) = some .none) :
    KeepsInv (execDamNone s.res.fcRaw s) := by
  have hp := h.parsing hs
  obtain ⟨hbcast, hkind, -⟩ := h.progress.early (.inr hs)
  have hnone : Parsing s.takeNoDst := { hp with fields := hp.fields.takeNoDst hkind }
  refine .next (hnone.goto_src { h.reading hs with } ?_ (h.progress.bound hp.busy))
  simp [h.progress.atDst hs, dstBytes_none hmode, hbcast, srcPanBytes]

theorem keepsInv_damShort (h : Inv s) (hs : s.state = FsmCode.dst)
    (hmode : classifyMode (fcDAM s.res.fcRaw) = some .short) : KeepsInv (execDamShort s.res.fcRaw s) := by
  have hr := h.reading hs
  have hoff := h.progress.atDst hs
  obtain ⟨hbcast, -, -⟩ := h.progress.early (.inr hs)
  refine .readDstPan (h.parsing hs) fun _ p hpan =>
    .readDstAddr (kind := .short) hpan hbcast nofun fun hlen a haddr => .ite ?_ ?_
  · intro _
    have hall : Parsing ((s.takeDstPan p).takeDstAddr .short a 2).takeBroadcast :=
      { haddr with fields := haddr.fields.takeBroadcast rfl hr.freshHdr }
    refine .next (hall.goto (.at_code FsmCode.srcPan rfl (fun _ => ?_) (modes := fun _ => hr.modes)
      (atSrcPan := fun _ => ⟨?_, rfl, classifyMode_short hmode, rfl⟩) (freshHdr := fun _ _ => hr.freshHdr)
      (freshSeg := fun _ _ => hr.freshSeg) (freshNonce := fun _ _ => hr.freshNonce) (noSource := fun _ => hr.noSource)))
    · simpa [hoff] using hlen
    · simp [hoff]
  · intro _
    refine .next (haddr.goto_src ((hr.takeDstPan p).takeDstAddr .short a 2) ?_ ?_)
    · simp [hoff, dstBytes_short hmode, hbcast, srcPanBytes]
    · simpa [hoff] using hlen

theorem keepsInv_damLong (h : Inv s) (hs : s.state = FsmCode.dst)
    (hmode : classifyMode (fcDAM s.res.fcRaw) = some .long) : KeepsInv (execDamLong s.res.fcRaw s) := by
  have hoff := h.progress.atDst hs
  obtain ⟨hbcast, -, -⟩ := h.progress.early (.inr hs)
  refine .readDstPan (h.parsing hs) fun _ p hpan =>
    .readDstAddr (kind := .long) hpan hbcast nofun fun hlen a haddr => .next ?_
  refine haddr.goto_src (((h.reading hs).takeDstPan p).takeDstAddr .long a 8) ?_ ?_
  · simp [hoff, dstBytes_long hmode, hbcast, srcPanBytes]
  · simpa [hoff] using hlen

theorem keepsInv_sDst (h : Inv s) (hs : s.state = FsmCode.dst) : KeepsInv (execSDst s) := by
  rcases hmode : classifyMode (fcDAM s.res.fcRaw) with _ | kind
  · rw [execSDst_reserved hmode]; exact .refused _
  · cases kind with
    | none => rw [execSDst_none hmode]; exact keepsInv_damNone h hs hmode
    | short => rw [execSDst_short hmode]; exact keepsInv_damShort h hs hmode
    | long => rw [execSDst_long hmode]; exact keepsInv_damLong h hs hmode

theorem keepsInv_sSrcPan (h : Inv s) (hs : s.state = FsmCode.srcPan) : KeepsInv (execSSrcPan s) := by
  have hp := h.parsing hs
  obtain ⟨hoff, hbcast, hdam, hpan⟩ := h.progress.atSrcPan hs
  refine .need hp fun hlen => .fsmRead fun _ => .next ?_
  have htake : ∀ p, Parsing (s.takeSrcPan p) := fun p => { hp with fields := hp.fields.takeSrcPan hpan p }
  refine (htake _).goto_src { h.reading hs with } ?_ ?_
  · have hmode : classifyMode (fcDAM s.res.fcRaw) = some .short := by rw [hdam]; rfl
    simp [hoff, hbcast, srcPanBytes, dstBytes_short hmode]
  · simpa [hoff] using hlen

/-- The source address moves OFF to the end of the header (30_encoding.md R67). -/
theorem keepsInv_readSrcAddr (h : Inv s) (hs : s.state = FsmCode.src) {kind : AddrKind} (hkind : kind ≠ .none) {n : Nat}
    (hn : srcBytes s.res.fcRaw = n) : KeepsInv (readSrcAddr s kind n) := by
  have hp := h.parsing hs
  have hr := h.reading hs
  refine .need hp fun hlen => .fsmRead fun _ => .next ?_
  have htake : ∀ a, Parsing (s.takeSrcAddr kind a n) := fun a => { hp with fields := hp.fields.takeSrcAddr hkind a n }
  have hoff : (s.advance n).off.toNat = s.off.toNat + n := State.advance_off_toNat hlen
  refine (htake _).goto_bound hr.freshSeg hr.freshNonce (hoff.trans ?_) (hoff.trans_le hlen)
  rw [h.progress.atSrc hs, ← hn]
  rfl

theorem keepsInv_samNone (h : Inv s) (hs : s.state = FsmCode.src) (hmode : classifyMode (fcSAM s.res.fcRaw) = some .none) :
    KeepsInv (execSamNone s.res.fcRaw s) := by
  have hp := h.parsing hs
  have hr := h.reading hs
  have hnone : Parsing s.takeNoSrc := { hp with fields := hp.fields.takeNoSrc hr.noSource }
  refine .next (hnone.goto_bound hr.freshSeg hr.freshNonce ?_ (h.progress.bound hp.busy))
  simpa [headerLength, srcBytes_none hmode] using h.progress.atSrc hs

theorem keepsInv_sSrc (h : Inv s) (hs : s.state = FsmCode.src) : KeepsInv (execSSrc s) := by
  rcases hmode : classifyMode (fcSAM s.res.fcRaw) with _ | kind
  · rw [execSSrc_reserved hmode]; exact .refused _
  · cases kind with
    | none => rw [execSSrc_none hmode]; exact keepsInv_samNone h hs hmode
    | short => rw [execSSrc_short hmode]; exact keepsInv_readSrcAddr h hs (kind := .short) nofun (srcBytes_short hmode)
    | long => rw [execSSrc_long hmode]; exact keepsInv_readSrcAddr h hs (kind := .long) nofun (srcBytes_long hmode)

end Sys2Proof.Machine
end

section
/-! S_BOUND to S_CCM_WAIT (42_addressing.md R142, 43_pan_filter.md, 44_segment_nonce.md). -/

namespace Sys2Proof.Machine

variable {s : State}

theorem keepsInv_sBound (h : Inv s) (hs : s.state = FsmCode.bound) : KeepsInv (execSBound s) := by
  have hp := h.parsing hs
  have hpay : Parsing s.takePayload := { hp with fields := hp.fields.takePayload }
  refine .need hp fun hlen => .next (hpay.goto (.at_code FsmCode.filter rfl (fun _ => ?_)
    (freshSeg := fun _ _ => h.progress.freshSeg hp.busy (by rw [hs]; rfl))
    (freshNonce := fun _ _ => h.progress.freshNonce hp.busy (by rw [hs]; decide))
    (header := fun _ => h.progress.header (by rw [hs]; rfl)) (payload := fun _ => ⟨rfl, rfl, ?_⟩)))
  · exact h.progress.bound hp.busy
  · have hframe := s.frameLen.isLt
    simp only [State.goto_off, State.goto_res, State.goto_frameLen, State.takePayload_off, State.takePayload_res_payLen,
      State.takePayload_frameLen, BitVec.toNat_ofNat]
    omega

theorem keepsInv_sFilter (h : Inv s) (hs : s.state = FsmCode.filter) : KeepsInv (execSFilter s) := by
  have hp := h.parsing hs
  have hseg := h.progress.freshSeg hp.busy (by rw [hs]; rfl)
  have hnonce := h.progress.freshNonce hp.busy (by rw [hs]; decide)
  refine .ite (fun _ => .next (hp.finish _ (miss := fun _ => ⟨hseg, hnonce⟩))) fun hvalid =>
    .ite (fun _ => .next (hp.finish _ (miss := fun _ => ⟨hseg, hnonce⟩))) fun hpan => ?_
  exact .next (hp.goto (.at_code FsmCode.segment rfl (fun _ => h.progress.bound hp.busy) (freshSeg := fun _ _ => hseg)
    (freshNonce := fun _ _ => hnonce) (header := fun _ => h.progress.header (by rw [hs]; rfl))
    (payload := fun _ => h.progress.payload (by rw [hs]; rfl))
    (pan := fun _ => ⟨by simpa using hvalid, by simpa using hpan⟩)))

/-- The segmentation in numbers, for a payload that lies in the frame and has room for tag and counter
(44_segment_nonce.md R170). -/
theorem State.takeSegments_toNat (hpay : s.res.payOff.toNat + s.res.payLen.toNat ≤ s.frameLen.toNat)
    (hroom : 8 ≤ s.res.payLen.toNat) (c : Nat) :
    (s.takeSegments c).res.ctLen.toNat + 8 = s.res.payLen.toNat ∧
    (s.takeSegments c).res.tagOff.toNat = s.res.payOff.toNat + (s.takeSegments c).res.ctLen.toNat ∧
    (s.takeSegments c).res.ctrOff.toNat = (s.takeSegments c).res.tagOff.toNat + 4 ∧
    (s.takeSegments c).res.ctrOff.toNat = s.res.ctrAt := by
  have hframe := s.frameLen.isLt
  simp only [State.takeSegments_res_ctLen, State.takeSegments_res_tagOff, State.takeSegments_res_ctrOff,
    Results.tagAt, Results.ctrAt, BitVec.toNat_ofNat]
  omega

/-- S_NONCE is entered with the segments inside the payload and the counter read from its place (R170, R171). -/
theorem Inv.goto_nonce (h : Inv s) (hs : s.state = FsmCode.segment) (hroom : 8 ≤ s.res.payLen.toNat) {c : Nat}
    (hc : s.readLe s.res.ctrAt 4 = c) : Inv ((s.takeSegments c).goto FsmCode.nonce) := by
  have hp := h.parsing hs
  obtain ⟨hpayOff, hadLen, hlen⟩ := h.progress.payload (by rw [hs]; rfl)
  have hseg : Parsing (s.takeSegments c) := { hp with fields := hp.fields.takeSegments c }
  obtain ⟨hct, htag, hctr, hat⟩ := State.takeSegments_toNat (s := s) (by rw [hpayOff]; omega) hroom c
  have hread : ((s.takeSegments c).goto FsmCode.nonce).readLe s.res.ctrAt 4 = c :=
    (State.readLe_congr (s := s) (by simp) (by simp) _ _).trans hc
  rw [hpayOff] at htag
  refine hseg.goto (.at_code FsmCode.nonce rfl (fun _ => h.progress.bound hp.busy)
    (freshNonce := fun _ _ => h.progress.freshNonce hp.busy (by rw [hs]; decide))
    (header := fun _ => h.progress.header (by rw [hs]; rfl)) (payload := fun _ => ⟨hpayOff, hadLen, hlen⟩)
    (pan := fun _ => h.progress.pan (by rw [hs]; rfl)) (segments := fun _ => ⟨rfl, hroom, hct, htag, hctr, ?_⟩))
  rw [State.goto_res, hat, hread]
  rfl

theorem keepsInv_sSegment (h : Inv s) (hs : s.state = FsmCode.segment) : KeepsInv (execSSegment s) :=
  .ite (fun _ => .next ((h.parsing hs).finish _)) fun hroom =>
    .fsmRead fun _ => .next (h.goto_nonce hs (Nat.le_of_not_lt hroom) rfl)

/-- S_CCM_WAIT is entered with the nonce of the counter bytes and the source address (R173, R176). -/
theorem Inv.goto_ccmWait (h : Inv s) (hs : s.state = FsmCode.nonce) (hlong : s.res.srcKind = .long) :
    Inv ((s.takeNonce.setCcmReq true).goto FsmCode.ccmWait) := by
  have hp := h.parsing hs
  have hnonce : Parsing s.takeNonce := { hp with fields := hp.fields.takeNonce }
  obtain ⟨hseg, hroom, hct, htag, hctr, hcounter⟩ := h.progress.segments (by rw [hs]; rfl)
  have hread : ((s.takeNonce.setCcmReq true).goto FsmCode.ccmWait).readLe s.res.ctrOff.toNat 4 =
      s.readLe s.res.ctrOff.toNat 4 := State.readLe_congr (by simp) (by simp) _ _
  rw [← hread] at hcounter
  refine hnonce.request (.at_code FsmCode.ccmWait rfl (fun _ => h.progress.bound hp.busy)
    (header := fun _ => h.progress.header (by rw [hs]; rfl)) (payload := fun _ => h.progress.payload (by rw [hs]; rfl))
    (pan := fun _ => h.progress.pan (by rw [hs]; rfl))
    (segments := fun _ => ⟨hseg, hroom, hct, htag, hctr, hcounter⟩)
    (wait := fun _ => ⟨hlong, rfl, rfl⟩))

theorem keepsInv_sNonce (h : Inv s) (hs : s.state = FsmCode.nonce) : KeepsInv (execSNonce s) :=
  .ite (fun _ => .next ((h.parsing hs).finish _)) fun hlong =>
    .fsmRead fun _ => .next (h.goto_ccmWait hs (by simpa using hlong))

theorem keepsInv_sCcmWait (h : Inv s) : KeepsInv (execSCcmWait s) := by
  rw [execSCcmWait_waits h.status.ccmDone]
  exact .next h

/-- The engine's event, presented to S_CCM_WAIT (44_segment_nonce.md R177). -/
theorem keepsInv_engine (h : Inv s) (ok : Bool) : KeepsInv (execSCcmWait (s.setCcmDone (some ok))) := by
  have hover : (s.setCcmDone (some ok)).setCcmDone none = s := by
    calc (s.setCcmDone (some ok)).setCcmDone none = s.setCcmDone s.ccmDone := by rw [h.status.ccmDone]; rfl
      _ = s := rfl
  rw [execSCcmWait_answered (s := s.setCcmDone (some ok)) rfl, hover]
  by_cases hs : s.state = FsmCode.ccmWait
  · obtain ⟨-, hnonce, -⟩ := h.progress.wait hs
    rw [State.answerCcm_taken ok hs]
    exact .next ((h.parsing_lowered hs).finish _ (by cases ok <;> nofun) (verdict := fun _ => hnonce)
      (miss := by cases ok <;> nofun) (ack := by cases ok <;> nofun))
  · rw [State.answerCcm_ignored ok hs]
    exact .next h

/-- The instruction of any state of the FSM. -/
theorem keepsInv_fsm (h : Inv s) {i : Instr} (hi : decode (.fsm4 s.state) = .ok i) : KeepsInv (exec i s) := by
  rcases decodeFsm_cases hi with ⟨-, rfl⟩ | ⟨hs, rfl⟩ | ⟨hs, rfl⟩ | ⟨hs, rfl⟩ | ⟨hs, rfl⟩ | ⟨hs, rfl⟩ | ⟨hs, rfl⟩ |
    ⟨hs, rfl⟩ | ⟨hs, rfl⟩ | ⟨hs, rfl⟩ | ⟨hs, rfl⟩ | ⟨-, rfl⟩ | ⟨-, rfl⟩
  · exact .next h
  · exact keepsInv_sFc h hs
  · exact keepsInv_sAck h hs
  · exact keepsInv_sSeq h hs
  · exact keepsInv_sDst h hs
  · exact keepsInv_sSrcPan h hs
  · exact keepsInv_sSrc h hs
  · exact keepsInv_sBound h hs
  · exact keepsInv_sFilter h hs
  · exact keepsInv_sSegment h hs
  · exact keepsInv_sNonce h hs
  · exact keepsInv_sCcmWait h
  · exact .next h

end Sys2Proof.Machine
end

section
/-! The host's transactions, reset, and the invariant over every turn (40_host_commands.md, 70_reset_and_hazards.md). -/

namespace Sys2Proof.Machine

variable {s : State}

/-- The invariant says nothing of CTRL, the sticky status bits, the value read and the turns to come. -/
theorem Inv.unobserved (h : Inv s) (irqEn wrWhileBusy cmdWhileBusy badCmd busErr : Bool) (rdata : Word)
    (turns : List Turn) :
    Inv { s with irqEn, wrWhileBusy, cmdWhileBusy, badCmd, busErr, rdata, turns } :=
  ⟨h.memory, { h.status with }, { h.results with }, { h.progress with }, h.config⟩

theorem Inv.setTurns (h : Inv s) (ts : List Turn) : Inv (s.setTurns ts) := h.unobserved _ _ _ _ _ _ _

theorem Inv.returns (h : Inv s) (v : Word) : Inv (s.returns v) := h.unobserved _ _ _ _ _ _ _

theorem Inv.flagWrWhileBusy (h : Inv s) : Inv s.flagWrWhileBusy := h.unobserved _ _ _ _ _ _ _

theorem Inv.refuse (h : Inv s) (write : Bool) : Inv (s.refuse write) := by
  rw [State.refuse_eq]
  exact h.unobserved _ _ _ _ _ _ _

/-- With BUSY = 0 the block rests (10_state.md R17, R30). -/
theorem Inv.resting (h : Inv s) (hb : s.busy = false) : s.state = FsmCode.idle ∨ s.state = FsmCode.done := by
  have hbusy := h.status.busy.symm.trans hb
  by_cases hidle : s.state = FsmCode.idle
  · exact .inl hidle
  · exact .inr (by simpa [hidle] using hbusy)

/-- At rest the host may write the frame and the configuration (40_host_commands.md R91, R92). -/
theorem Inv.load (h : Inv s) (hb : s.busy = false) {m : List Host.Cell} {len : BitVec 8} {pan : BitVec 16} {w : Bool}
    (hm : Memory.wf m = true) (hpan : w = false → pan = 0x0000#16) :
    Inv { s with frameBuf := m, frameLen := len, cfgPan := pan, cfgPanWritten := w } :=
  ⟨hm, { h.status with }, { h.results with }, .resting hb (h.resting hb), hpan⟩

/-- PARSE: the FSM enters S_FC with a clean result set (40_host_commands.md R94). -/
theorem Inv.startParse (h : Inv s) : Inv s.startParse :=
  have hp : Parsing s.startParse := ⟨h.memory, h.config, rfl, rfl, rfl, h.status.ccmDone, .reset, rfl, rfl, rfl⟩
  hp.goto (code := FsmCode.fc) (.at_code FsmCode.fc rfl (fun _ => Nat.zero_le _) (atFc := fun _ => ⟨rfl, rfl⟩)
    (freshHdr := fun _ _ => rfl) (freshSeg := fun _ _ => rfl) (freshNonce := fun _ _ => rfl))

/-- S_IDLE with a clean result set, whatever the inputs are: what CLEAR and reset leave. -/
theorem Inv.idle (hstate : s.state = FsmCode.idle) (hbusy : s.busy = false) (hdone : s.done = false)
    (hreq : s.ccmReq = false) (hccm : s.ccmDone = none) (hres : s.res = Results.reset)
    (hm : Memory.wf s.frameBuf = true) (hpan : s.cfgPanWritten = false → s.cfgPan = 0x0000#16) : Inv s where
  memory := hm
  status := ⟨by rw [hstate]; rfl, by rw [hstate, hbusy]; rfl, by rw [hstate, hdone]; rfl, by rw [hstate, hreq]; rfl, hccm⟩
  results :=
    have hfields : FieldsInv s.res := hres ▸ .reset
    { hfields with
      running := fun _ => by simp [hres]
      ended := fun hd => absurd (hdone.symm.trans hd) nofun
      idle := fun _ => hres
      verdict := by simp [hres]
      miss := by simp [hres]
      ack := by simp [hres] }
  progress := .resting hbusy (.inl hstate)
  config := hpan

theorem Inv.clearAll (h : Inv s) : Inv s.clearAll := .idle rfl rfl rfl rfl h.status.ccmDone rfl h.memory h.config

theorem Inv.resetTurn (s : State) : Inv s.resetTurn := .idle rfl rfl rfl rfl rfl rfl rfl fun _ => rfl

/-! ## The transactions -/

theorem keepsInv_wrCmd (h : Inv s) (v : Word) : KeepsInv (execWrCmd v s) := by
  unfold execWrCmd
  cases classifyCmd v with
  | nop => exact .next h
  | parse => exact .ite (fun _ => .next (h.unobserved _ _ _ _ _ _ _)) fun _ => .next h.startParse
  | clear => exact .next h.clearAll
  | undefined => exact .next (h.unobserved _ _ _ _ _ _ _)

/-- A write that is dropped while BUSY = 1 (40_host_commands.md R91, R92). -/
theorem keepsInv_guarded (h : Inv s) {t : State} (ht : s.busy = false → Inv t) :
    KeepsInv (if s.busy then .next s.flagWrWhileBusy else .next t) :=
  .ite (fun _ => .next h.flagWrWhileBusy) fun hb => .next (ht (by simpa using hb))

theorem keepsInv_wr8 (h : Inv s) (offset : BitVec 8) (v : Word) : KeepsInv (execWr8 offset v s) :=
  .ite (fun _ => .next (h.refuse _)) fun _ => keepsInv_guarded h fun hb =>
    h.load hb (State.writeByte_wf _ h.memory offset.isLt) h.config

theorem keepsInv_wr32Buf (h : Inv s) (offset : BitVec 8) (v : Word) : KeepsInv (execWr32Buf offset v s) := by
  refine .ite (fun _ => .next (h.refuse _)) fun haligned => keepsInv_guarded h fun hb => ?_
  have hin : offset.toNat + 3 < 256 := by
    have hbyte := offset.isLt
    have hmod : offset.toNat % 4 = 0 := by simpa [refusedAccess] using haligned
    omega
  exact h.load hb (State.writeWord_wf v h.memory hin) h.config

theorem keepsInv_rd8 (h : Inv s) (offset : BitVec 8) : KeepsInv (execRd8 offset s) :=
  .ite (fun _ => .next (h.refuse _)) fun _ => .next (h.returns _)

theorem keepsInv_rd32Buf (h : Inv s) (offset : BitVec 8) : KeepsInv (execRd32Buf offset s) :=
  .ite (fun _ => .next (h.refuse _)) fun _ => .next (h.returns _)

theorem keepsInv_rd32Reg (h : Inv s) (offset : BitVec 9) : KeepsInv (execRd32Reg offset s) :=
  .ite (fun _ => .next (h.refuse _)) fun _ => .next (h.returns _)

theorem keepsInv_wr32Reg (h : Inv s) (offset : BitVec 9) (v : Word) : KeepsInv (execWr32Reg offset v s) :=
  .ite (fun _ => .next (h.refuse _)) fun _ =>
  .ite (fun _ => keepsInv_guarded h fun hb => h.load hb h.memory h.config) fun _ =>
  .ite (fun _ => keepsInv_guarded h fun hb => h.load hb h.memory nofun) fun _ =>
  .ite (fun _ => .next (h.unobserved _ _ _ _ _ _ _)) fun _ => .next h

theorem KeepsInv.exec_ite {c : Prop} [Decidable c] {i j : Instr} (hi : KeepsInv (exec i s)) (hj : KeepsInv (exec j s)) :
    KeepsInv (exec (if c then i else j) s) := by
  split
  · exact hi
  · exact hj

/-- Any descriptor with any value: the patterns of 30_encoding.md R82 in their order. -/
theorem keepsInv_host (h : Inv s) (td : BitVec 11) (v : Word) : KeepsInv (exec (decodeTd td v) s) :=
  have hrefuse : ∀ write, KeepsInv (.next (s.refuse write)) := fun write => .next (h.refuse write)
  .exec_ite (keepsInv_wrCmd h v) <| .exec_ite (hrefuse _) <| .exec_ite (hrefuse _) <| .exec_ite (hrefuse _) <|
  .exec_ite (keepsInv_rd8 h _) <| .exec_ite (keepsInv_wr8 h _ v) <| .exec_ite (keepsInv_rd32Buf h _) <|
  .exec_ite (keepsInv_wr32Buf h _ v) <| .exec_ite (keepsInv_rd32Reg h _) (keepsInv_wr32Reg h _ v)

/-- Every turn keeps the invariant: the host's, the block's, the engine's and reset. -/
theorem keepsInv_step (h : Inv s) : KeepsInv (step s) := by
  obtain ⟨j, hj⟩ := decode_of_stateLegal h.status.legal
  cases ht : s.turns with
  | nil =>
    cases hb : s.busy with
    | true => rw [step_unlisted_busy hj ht hb]; exact keepsInv_fsm h hj
    | false => rw [step_unlisted_resting hj ht hb]; exact .next h
  | cons t rest =>
    have hrest : Inv (s.setTurns rest) := h.setTurns rest
    cases t with
    | host td v => rw [step_host hj ht (i := decodeTd td v) rfl]; exact keepsInv_host hrest td v
    | otherWidth w off => rw [step_otherWidth hj ht]; exact .next (hrest.refuse w)
    | block =>
      cases hb : s.busy with
      | true => rw [step_block_busy hj ht hb]; exact keepsInv_fsm hrest hj
      | false => rw [step_block_resting hj ht hb]; exact .next hrest
    | engine ok => rw [step_engine hj ht]; exact keepsInv_engine hrest ok
    | reset => rw [step_reset hj ht]; exact .next (Inv.resetTurn _)

/-- Settles O11: by the kind of turn, and on the block's turn by the state of the FSM. -/
theorem everyStepKeepsTheInvariant : Obligations.EveryStepKeepsTheInvariant :=
  fun _ t h hstep => keepsInv_step h t hstep

end Sys2Proof.Machine
end

section
/-! What holds of the next state, where an operation answers one: one rule per shared operation, and one for the turns. -/

namespace Sys2Proof.Machine

/-- Where the answer is a next state, `P` holds of it; `KeepsInv` is the case where `P` is the invariant. -/
def OnNext (P : State → Prop) (a : Answer) : Prop := ∀ t, a = .next t → P t

variable {s : State} {P : State → Prop}

theorem OnNext.next (h : P s) : OnNext P (.next s) := by
  rintro _ ⟨⟩
  exact h

theorem OnNext.fault (r : Fault) : OnNext P (.fault r) := by
  rintro _ ⟨⟩

theorem OnNext.refused (r : Refusal) : OnNext P (.refused r) := by
  rintro _ ⟨⟩

theorem OnNext.mono {Q : State → Prop} {a : Answer} (h : OnNext P a) (hPQ : ∀ t, P t → Q t) : OnNext Q a :=
  fun t ht => hPQ t (h t ht)

theorem OnNext.ite {c : Prop} [Decidable c] {a b : Answer} (ha : c → OnNext P a) (hb : ¬ c → OnNext P b) :
    OnNext P (if c then a else b) := by
  split
  · next h => exact ha h
  · next h => exact hb h

theorem OnNext.exec_ite {c : Prop} [Decidable c] {i j : Instr} (hi : c → OnNext P (exec i s))
    (hj : ¬ c → OnNext P (exec j s)) : OnNext P (exec (if c then i else j) s) := by
  split
  · next h => exact hi h
  · next h => exact hj h

/-- `need` ends the parse with its code, or goes on (00_scope.md R8). -/
theorem OnNext.need {n : Nat} {code : BitVec 8} {k : Answer} (hend : P (s.finish .structuralError code))
    (hk : OnNext P k) : OnNext P (need s n code k) := by
  rcases need_cases s n code k with ⟨-, heq⟩ | ⟨-, heq⟩
  · rw [heq]; exact .next hend
  · rw [heq]; exact hk

/-- `fsmRead` stops, or goes on with the value read (20_memory.md R48). -/
theorem OnNext.fsmRead {a n : Nat} {k : Nat → Answer} (hk : ∀ v, OnNext P (k v)) : OnNext P (fsmRead s a n k) :=
  .ite (fun _ => hk _) fun _ => .fault _

/-- A step by the kind of turn. The block's turn, listed or not, takes `ts` as the turns left (log entry 14). -/
theorem OnNext.step
    (hhost : ∀ td v rest, s.turns = .host td v :: rest → OnNext P (exec (decodeTd td v) (s.setTurns rest)))
    (hwidth : ∀ w rest, P ((s.setTurns rest).refuse w))
    (hblock : ∀ j ts, decode (.fsm4 s.state) = .ok j → s.busy = true → OnNext P (exec j (s.setTurns ts)))
    (hrest : ∀ ts, P (s.setTurns ts))
    (hengine : ∀ ok rest, OnNext P (execSCcmWait ((s.setTurns rest).setCcmDone (some ok))))
    (hreset : ∀ rest, s.turns = .reset :: rest → P (s.setTurns rest).resetTurn) : OnNext P (step s) := by
  cases hj : decode (.fsm4 s.state) with
  | error e => rw [step_undecoded hj]; exact .refused _
  | ok j =>
    cases ht : s.turns with
    | nil =>
      have hself : s.setTurns s.turns = s := State.setTurns_self rfl
      cases hb : s.busy with
      | true => rw [step_unlisted_busy hj ht hb, ← hself]; exact hblock j _ hj hb
      | false => rw [step_unlisted_resting hj ht hb]; exact .next (hself ▸ hrest s.turns)
    | cons turn rest =>
      cases turn with
      | host td v => rw [step_host hj ht (i := decodeTd td v) rfl]; exact hhost td v rest ht
      | otherWidth w off => rw [step_otherWidth hj ht]; exact .next (hwidth w rest)
      | block =>
        cases hb : s.busy with
        | true => rw [step_block_busy hj ht hb]; exact hblock j rest hj hb
        | false => rw [step_block_resting hj ht hb]; exact .next (hrest rest)
      | engine ok => rw [step_engine hj ht]; exact hengine ok rest
      | reset => rw [step_reset hj ht]; exact .next (hreset rest ht)

end Sys2Proof.Machine
end

section
/-! What a host transaction can do (40_host_commands.md R90 to R96, 20_memory.md R47). -/

namespace Sys2Proof.Machine

/-- The next states the transaction of a descriptor and its value can have. Of a write that is taken it says which registers
change, not to what; of PARSE and CLEAR it says the descriptor and the value that ask for them. -/
inductive HostEffect (s : State) (td : BitVec 11) (v : Word) : State → Prop where
  /-- a refused access (20_memory.md R47) -/
  | refused (write : Bool) : HostEffect s td v (s.refuse write)
  /-- a read (R90) -/
  | returned (w : Word) : HostEffect s td v (s.returns w)
  /-- a write of the frame or the configuration while BUSY = 1 (R91, R92) -/
  | dropped (hb : s.busy = true) : HostEffect s td v s.flagWrWhileBusy
  /-- a write of FRAME_BUF, FRAME_LEN or CFG_PAN while BUSY = 0 (R91, R92) -/
  | loaded (hb : s.busy = false) (m : List Host.Cell) (len : BitVec 8) (pan : BitVec 16) (w : Bool) :
      HostEffect s td v { s with frameBuf := m, frameLen := len, cfgPan := pan, cfgPanWritten := w }
  /-- a write of CTRL (R92) -/
  | irqEn (b : Bool) : HostEffect s td v (s.setIrqEn b)
  /-- a write to a register that takes none, and NOP (R92, R93) -/
  | ignored : HostEffect s td v s
  /-- PARSE while BUSY = 1 (R94) -/
  | parseIgnored (hb : s.busy = true) : HostEffect s td v s.flagCmdWhileBusy
  /-- PARSE while BUSY = 0 (R94) -/
  | parse (htd : td = 0x70C#11) (hv : v = 1#32) (hb : s.busy = false) : HostEffect s td v s.startParse
  /-- CLEAR (R95) -/
  | clear (htd : td = 0x70C#11) (hv : v = 2#32) : HostEffect s td v s.clearAll
  /-- a value that is no command (R96) -/
  | badCmd : HostEffect s td v s.flagBadCmd

variable {s : State} {td : BitVec 11} {v : Word}

theorem classifyCmd_eq_parse (h : classifyCmd v = .parse) : v = 1#32 := by
  unfold classifyCmd at h
  split_ifs at h with _ hparse
  exact hparse

theorem classifyCmd_eq_clear (h : classifyCmd v = .clear) : v = 2#32 := by
  unfold classifyCmd at h
  split_ifs at h with _ _ hclear
  exact hclear

/-- A write to CMD, by the command its value stands for (30_encoding.md R70). -/
theorem hostEffect_wrCmd (htd : td = 0x70C#11) : OnNext (HostEffect s td v) (execWrCmd v s) := by
  unfold execWrCmd
  cases hc : classifyCmd v with
  | nop => exact .next .ignored
  | parse =>
    exact .ite (fun hb => .next (.parseIgnored hb)) fun hb =>
      .next (.parse htd (classifyCmd_eq_parse hc) (by simpa using hb))
  | clear => exact .next (.clear htd (classifyCmd_eq_clear hc))
  | undefined => exact .next .badCmd

/-- A write that is dropped while BUSY = 1 (40_host_commands.md R91, R92). -/
theorem hostEffect_guarded {t : State} (ht : s.busy = false → HostEffect s td v t) :
    OnNext (HostEffect s td v) (if s.busy then .next s.flagWrWhileBusy else .next t) :=
  .ite (fun hb => .next (.dropped hb)) fun hb => .next (ht (by simpa using hb))

theorem hostEffect_wr32Reg (offset : BitVec 9) : OnNext (HostEffect s td v) (execWr32Reg offset v s) :=
  .ite (fun _ => .next (.refused _)) fun _ =>
  .ite (fun _ => hostEffect_guarded fun hb => .loaded hb _ _ _ _) fun _ =>
  .ite (fun _ => hostEffect_guarded fun hb => .loaded hb _ _ _ _) fun _ =>
  .ite (fun _ => .next (.irqEn _)) fun _ => .next .ignored

/-- Any descriptor with any value: the patterns of 30_encoding.md R82 in their order. -/
theorem hostEffect_host (s : State) (td : BitVec 11) (v : Word) :
    OnNext (HostEffect s td v) (exec (decodeTd td v) s) :=
  have hrefuse (write : Bool) : OnNext (HostEffect s td v) (.next (s.refuse write)) := .next (.refused write)
  have hread {c : Prop} [Decidable c] (w : Word) :
      OnNext (HostEffect s td v) (if c then .next (s.refuse false) else .next (s.returns w)) :=
    .ite (fun _ => hrefuse _) fun _ => .next (.returned w)
  .exec_ite hostEffect_wrCmd fun _ => .exec_ite (fun _ => hrefuse _) fun _ => .exec_ite (fun _ => hrefuse _) fun _ =>
  .exec_ite (fun _ => hrefuse _) fun _ => .exec_ite (fun _ => hread _) fun _ =>
  .exec_ite (fun _ => .ite (fun _ => hrefuse _) fun _ => hostEffect_guarded fun hb => .loaded hb _ _ _ _) fun _ =>
  .exec_ite (fun _ => hread _) fun _ =>
  .exec_ite (fun _ => .ite (fun _ => hrefuse _) fun _ => hostEffect_guarded fun hb => .loaded hb _ _ _ _) fun _ =>
  .exec_ite (fun _ => hread _) fun _ => hostEffect_wr32Reg _

end Sys2Proof.Machine
end

section
/-! The inputs of a parse: the FSM only reads them, and the host's writes are dropped while a parse runs
(20_memory.md R54). -/

namespace Sys2Proof.Machine

/-- What a parse reads: FRAME_BUF with the bytes its unwritten cells hold, FRAME_LEN and CFG_PAN. -/
def State.inputs (s : State) : List Host.Cell × Nat × BitVec 8 × BitVec 16 :=
  (s.frameBuf, s.epoch, s.frameLen, s.cfgPan)

variable (s : State)

/-! No operation of the FSM writes an input. -/

@[simp] theorem State.goto_inputs (c : BitVec 4) : (s.goto c).inputs = s.inputs := rfl
@[simp] theorem State.finish_inputs (o : ParseOutcome) (r : BitVec 8) : (s.finish o r).inputs = s.inputs := rfl
@[simp] theorem State.setCcmReq_inputs (b : Bool) : (s.setCcmReq b).inputs = s.inputs := rfl
@[simp] theorem State.setCcmDone_inputs (e : Option Bool) : (s.setCcmDone e).inputs = s.inputs := rfl
@[simp] theorem State.setTurns_inputs (ts : List Turn) : (s.setTurns ts).inputs = s.inputs := rfl
@[simp] theorem State.captureFc_inputs (fc : BitVec 16) : (s.captureFc fc).inputs = s.inputs := rfl
@[simp] theorem State.takeSeq_inputs (b : Nat) : (s.takeSeq b).inputs = s.inputs := rfl
@[simp] theorem State.takeDstPan_inputs (p : Nat) : (s.takeDstPan p).inputs = s.inputs := rfl
@[simp] theorem State.takeSrcPan_inputs (p : Nat) : (s.takeSrcPan p).inputs = s.inputs := rfl
@[simp] theorem State.takeDstAddr_inputs (kind : AddrKind) (v n : Nat) : (s.takeDstAddr kind v n).inputs = s.inputs := rfl
@[simp] theorem State.takeBroadcast_inputs : s.takeBroadcast.inputs = s.inputs := rfl
@[simp] theorem State.takeNoDst_inputs : s.takeNoDst.inputs = s.inputs := rfl
@[simp] theorem State.takeNoSrc_inputs : s.takeNoSrc.inputs = s.inputs := rfl
@[simp] theorem State.takeSrcAddr_inputs (kind : AddrKind) (v n : Nat) : (s.takeSrcAddr kind v n).inputs = s.inputs := rfl
@[simp] theorem State.takeHdrLen_inputs : s.takeHdrLen.inputs = s.inputs := rfl
@[simp] theorem State.takePayload_inputs : s.takePayload.inputs = s.inputs := rfl
@[simp] theorem State.takeSegments_inputs (c : Nat) : (s.takeSegments c).inputs = s.inputs := rfl
@[simp] theorem State.takeNonce_inputs : s.takeNonce.inputs = s.inputs := rfl

@[simp] theorem State.answerCcm_inputs (ok : Bool) : (s.answerCcm ok).inputs = s.inputs := by
  by_cases hwait : s.state = FsmCode.ccmWait
  · rw [State.answerCcm_taken ok hwait]; simp
  · rw [State.answerCcm_ignored ok hwait]

@[simp] theorem State.refuse_inputs (write : Bool) : (s.refuse write).inputs = s.inputs := by
  rw [State.refuse_eq]; rfl

/-- Where the answer is a next state, it has the inputs of `s`. -/
def KeepsInputs : Answer → Prop := OnNext fun t => t.inputs = s.inputs

variable {s}

/-- An operation run from a state with the same inputs. -/
theorem KeepsInputs.of_same {t : State} {a : Answer} (hsame : t.inputs = s.inputs) (h : KeepsInputs t a) :
    KeepsInputs s a :=
  OnNext.mono h fun _ hu => hu.trans hsame

/-- The field reads of the FSM: the parse ends for want of bytes, or goes on with what is done with the value. -/
theorem KeepsInputs.need_read {n a : Nat} {code : BitVec 8} {k : Nat → Answer} (hk : ∀ v, KeepsInputs s (k v)) :
    KeepsInputs s (need s n code (fsmRead s a n k)) := OnNext.need (by simp) (.fsmRead hk)

theorem keepsInputs_raise (code : BitVec 8) : KeepsInputs s (raiseStructural code s) := .next (by simp)

/-! One lemma per state of the FSM. -/

theorem keepsInputs_runFrameControl (fc : BitVec 16) : KeepsInputs s (runFrameControl fc s) := by
  have hreject (code : BitVec 8) : KeepsInputs s (rejectFc code fc s) := .next (by simp)
  have hdrop : KeepsInputs s (notDecoded fc s) := .next (by simp)
  unfold runFrameControl
  cases classifyFc fc with
  | ftData | ftAck => exact .next (by simp)
  | ftBeacon | ftMacCommand | ftReserved | ftMultipurpose | ftFragment | ftExtended => exact hdrop
  | _ => exact hreject _

theorem keepsInputs_sFc : KeepsInputs s (execSFc s) :=
  .ite (fun _ => keepsInputs_raise _) fun _ => .fsmRead fun _ => keepsInputs_runFrameControl _

theorem keepsInputs_sAck : KeepsInputs s (execSAck s) :=
  .ite (fun _ => .fsmRead fun _ => .next (by simp)) fun _ => .next (by simp)

theorem keepsInputs_sSeq : KeepsInputs s (execSSeq s) := .need_read fun _ => .next (by simp)

/-- What follows the destination PAN keeps the inputs it finds. -/
theorem keepsInputs_readDstPan {k : State → Answer} (hk : ∀ t, KeepsInputs t (k t)) : KeepsInputs s (readDstPan s k) :=
  .need_read fun _ => .of_same (by simp) (hk _)

/-- What follows the destination address keeps the inputs it finds. -/
theorem keepsInputs_readDstAddr {kind : AddrKind} {n : Nat} {k : State → Answer} (hk : ∀ t, KeepsInputs t (k t)) :
    KeepsInputs s (readDstAddr s kind n k) :=
  .need_read fun _ => .of_same (by simp) (hk _)

theorem keepsInputs_readSrcAddr (kind : AddrKind) (n : Nat) : KeepsInputs s (readSrcAddr s kind n) :=
  .need_read fun _ => .next (by simp)

theorem keepsInputs_sDst : KeepsInputs s (execSDst s) := by
  rcases hmode : classifyMode (fcDAM s.res.fcRaw) with _ | _ | _ | _
  · rw [execSDst_reserved hmode]; exact .refused _
  · rw [execSDst_none hmode]; exact .next (by simp)
  · rw [execSDst_short hmode]
    exact keepsInputs_readDstPan fun _ => keepsInputs_readDstAddr fun _ =>
      .ite (fun _ => .next (by simp)) fun _ => .next (by simp)
  · rw [execSDst_long hmode]
    exact keepsInputs_readDstPan fun _ => keepsInputs_readDstAddr fun _ => .next (by simp)

theorem keepsInputs_sSrcPan : KeepsInputs s (execSSrcPan s) := .need_read fun _ => .next (by simp)

theorem keepsInputs_sSrc : KeepsInputs s (execSSrc s) := by
  rcases hmode : classifyMode (fcSAM s.res.fcRaw) with _ | _ | _ | _
  · rw [execSSrc_reserved hmode]; exact .refused _
  · rw [execSSrc_none hmode]; exact .next (by simp)
  · rw [execSSrc_short hmode]; exact keepsInputs_readSrcAddr _ _
  · rw [execSSrc_long hmode]; exact keepsInputs_readSrcAddr _ _

theorem keepsInputs_sBound : KeepsInputs s (execSBound s) := OnNext.need (by simp) <| .next (by simp)

theorem keepsInputs_sFilter : KeepsInputs s (execSFilter s) :=
  .ite (fun _ => .next (by simp)) fun _ => .ite (fun _ => .next (by simp)) fun _ => .next (by simp)

theorem keepsInputs_sSegment : KeepsInputs s (execSSegment s) :=
  .ite (fun _ => keepsInputs_raise _) fun _ => .fsmRead fun _ => .next (by simp)

theorem keepsInputs_sNonce : KeepsInputs s (execSNonce s) :=
  .ite (fun _ => keepsInputs_raise _) fun _ => .fsmRead fun _ => .next (by simp)

theorem keepsInputs_sCcmWait : KeepsInputs s (execSCcmWait s) := by
  rcases hdone : s.ccmDone with _ | ok
  · rw [execSCcmWait_waits hdone]; exact .next rfl
  · rw [execSCcmWait_answered hdone]; exact .next (by simp)

/-- No instruction of the FSM writes an input. -/
theorem keepsInputs_fsm {i : Instr} (hi : decode (.fsm4 s.state) = .ok i) : KeepsInputs s (exec i s) := by
  rcases decodeFsm_cases hi with ⟨-, rfl⟩ | ⟨-, rfl⟩ | ⟨-, rfl⟩ | ⟨-, rfl⟩ | ⟨-, rfl⟩ | ⟨-, rfl⟩ | ⟨-, rfl⟩ | ⟨-, rfl⟩ |
    ⟨-, rfl⟩ | ⟨-, rfl⟩ | ⟨-, rfl⟩ | ⟨-, rfl⟩ | ⟨-, rfl⟩
  · exact .next rfl
  · exact keepsInputs_sFc
  · exact keepsInputs_sAck
  · exact keepsInputs_sSeq
  · exact keepsInputs_sDst
  · exact keepsInputs_sSrcPan
  · exact keepsInputs_sSrc
  · exact keepsInputs_sBound
  · exact keepsInputs_sFilter
  · exact keepsInputs_sSegment
  · exact keepsInputs_sNonce
  · exact keepsInputs_sCcmWait
  · exact .next rfl

/-- While BUSY = 1 no host transaction writes an input. -/
theorem HostEffect.inputs_of_busy {td : BitVec 11} {v : Word} {t : State} (h : HostEffect s td v t)
    (hb : s.busy = true) : t.inputs = s.inputs := by
  cases h with
  | refused write => exact State.refuse_inputs s write
  | loaded hrest | parse _ _ hrest => simp [hb] at hrest
  | _ => rfl

/-- Every turn but reset leaves the inputs of a running parse as they are. -/
theorem keepsInputs_step (hb : s.busy = true) (hreset : ∀ rest, s.turns ≠ .reset :: rest) : KeepsInputs s (step s) :=
  .step
    (hhost := fun td v rest _ => (hostEffect_host _ td v).mono fun _ h => h.inputs_of_busy (s := s.setTurns rest) hb)
    (hwidth := fun w rest => (s.setTurns rest).refuse_inputs w)
    (hblock := fun _ ts hj _ => keepsInputs_fsm (s := s.setTurns ts) hj)
    (hrest := fun _ => rfl)
    (hengine := fun ok rest => keepsInputs_sCcmWait (s := (s.setTurns rest).setCcmDone (some ok)))
    (hreset := fun rest ht => absurd ht (hreset rest))

/-- Settles O53: by the kind of turn; the host's writes are dropped, and the FSM and the engine write no input. -/
theorem inputsAreStableDuringAParse : Obligations.InputsAreStableDuringAParse := by
  intro s t hb hreset hstep
  have hinputs : t.inputs = s.inputs := keepsInputs_step hb hreset t hstep
  simpa [State.inputs] using hinputs

end Sys2Proof.Machine
end

section
/-! The results after the end of a parse (20_memory.md R53): in S_DONE only PARSE, CLEAR and reset write them. -/

namespace Sys2Proof.Machine

/-- What the host is told of a parse: the result set, DONE and STATE. -/
def State.report (s : State) : Results × Bool × BitVec 4 := (s.res, s.done, s.state)

variable {s : State}

theorem State.refuse_report (s : State) (write : Bool) : (s.refuse write).report = s.report := by
  rw [State.refuse_eq]; rfl

/-- No host transaction but PARSE and CLEAR writes the report, busy or not. -/
theorem HostEffect.report {td : BitVec 11} {v : Word} {t : State} (h : HostEffect s td v t)
    (hcmd : td = 0x70C#11 → v ≠ 1#32 ∧ v ≠ 2#32) : t.report = s.report := by
  cases h with
  | refused write => exact State.refuse_report s write
  | parse htd hv => exact absurd hv (hcmd htd).1
  | clear htd hv => exact absurd hv (hcmd htd).2
  | _ => rfl

/-- The engine's answer changes no report but that of S_CCM_WAIT (44_segment_nonce.md R177). -/
theorem report_of_engine (hs : s.state ≠ FsmCode.ccmWait) (ok : Bool) :
    OnNext (fun t => t.report = s.report) (execSCcmWait (s.setCcmDone (some ok))) := by
  rw [execSCcmWait_answered (s := s.setCcmDone (some ok)) rfl]
  rw [State.answerCcm_ignored (s := (s.setCcmDone (some ok)).setCcmDone none) ok hs]
  exact .next rfl

/-- In S_DONE every turn but PARSE, CLEAR and reset leaves the report as it is. -/
theorem report_of_step (hb : s.busy = false) (hs : s.state = FsmCode.done) (hreset : ∀ rest, s.turns ≠ .reset :: rest)
    (hcmd : ∀ v rest, s.turns = .host 0x70C#11 v :: rest → v ≠ 1#32 ∧ v ≠ 2#32) :
    OnNext (fun t => t.report = s.report) (step s) :=
  .step
    (hhost := fun td v rest ht => (hostEffect_host _ td v).mono fun _ h =>
      h.report (s := s.setTurns rest) fun htd => hcmd v rest (htd ▸ ht))
    (hwidth := fun w rest => (s.setTurns rest).refuse_report w)
    (hblock := fun _ _ _ hbusy => absurd (hb.symm.trans hbusy) nofun)
    (hrest := fun _ => rfl)
    (hengine := fun ok rest => report_of_engine (s := s.setTurns rest) (by simp [hs]) ok)
    (hreset := fun rest ht => absurd ht (hreset rest))

/-- DONE = 1 stands for S_DONE, where the block rests (10_state.md R17, R30). -/
theorem Inv.ended (h : Inv s) (hd : s.done = true) : s.state = FsmCode.done ∧ s.busy = false := by
  have hs : s.state = FsmCode.done := by simpa [hd] using h.status.done
  exact ⟨hs, by rw [h.status.busy, hs]; rfl⟩

/-- Settles O54: with DONE = 1 the block is in S_DONE, where the report is kept. -/
theorem resultsStayUntilParseOrClear : Obligations.ResultsStayUntilParseOrClear := by
  intro s t h hd hstep hreset hcmd
  obtain ⟨hs, hb⟩ := h.ended hd
  have hreport : t.report = s.report := report_of_step hb hs hreset hcmd t hstep
  simpa [State.report, hd, hs] using hreport

end Sys2Proof.Machine
end

section
/-! The host's refused accesses and its 32-bit reads (20_memory.md R44, R45, R47). -/

namespace Sys2Proof

variable {td : BitVec 11}

/-- A value of two bits that is not 0 has a bit set (20_memory.md R46). -/
theorem bit_of_misaligned (h : td.extractLsb' 0 2 ≠ 0#2) : td.getLsbD 0 = true ∨ td.getLsbD 1 = true := by
  by_contra hbits
  simp only [not_or, Bool.not_eq_true] at hbits
  obtain ⟨h0, h1⟩ := hbits
  refine h (BitVec.eq_of_getLsbD_eq fun k hk => ?_)
  obtain rfl | rfl : k = 0 ∨ k = 1 := by omega
  · simpa using h0
  · simpa using h1

/-- A 32-bit access at a misaligned offset is read as one of the two misaligned rows (30_encoding.md R82). -/
theorem decodeTd_misaligned (v : Word) (hwide : td.getLsbD 9 = true) (hlow : td.extractLsb' 0 2 ≠ 0#2) :
    decodeTd td v = .refusedMisalignedBit0 (td.getLsbD 10) (td.setWidth 9) ∨
    decodeTd td v = .refusedMisalignedBit1 (td.getLsbD 10) (td.setWidth 9) := by
  have hcmd : td ≠ 0x70C#11 := by rintro rfl; exact hlow rfl
  simp only [decodeTd, if_neg hcmd, hwide, Bool.true_and]
  cases h0 : td.getLsbD 0 with
  | true => exact .inl rfl
  | false =>
    have h1 : td.getLsbD 1 = true := (bit_of_misaligned hlow).resolve_left (ne_true_of_eq_false h0)
    rw [h1]
    exact .inr rfl

/-- An 8-bit access at 0x100 or above is read as the row of refused byte accesses (30_encoding.md R82). -/
theorem decodeTd_byteReg (v : Word) (hbyte : td.getLsbD 9 = false) (hhigh : td.getLsbD 8 = true) :
    decodeTd td v = .refusedByteReg (td.getLsbD 10) (td.setWidth 9) := by
  have hcmd : td ≠ 0x70C#11 := by rintro rfl; exact absurd hbyte (by decide)
  simp only [decodeTd, if_neg hcmd, hbyte, hhigh]
  rfl

/-- A word of four bytes is their concatenation, the first in bits 7:0. -/
theorem word32_eq (b0 b1 b2 b3 : Byte) : word32 b0 b1 b2 b3 = b3 ++ b2 ++ b1 ++ b0 :=
  BitVec.append_assoc'

namespace Machine

variable {s : State}

/-- The three rows of refused accesses (20_memory.md R47). -/
theorem exec_refused (s : State) (w : Bool) (off : BitVec 9) :
    exec (.refusedMisalignedBit0 w off) s = .next (s.refuse w) ∧
    exec (.refusedMisalignedBit1 w off) s = .next (s.refuse w) ∧ exec (.refusedByteReg w off) s = .next (s.refuse w) :=
  ⟨rfl, rfl, rfl⟩

/-- The descriptors of refused accesses (20_memory.md R47, 30_encoding.md R82). -/
theorem exec_decodeTd_refused {td : BitVec 11} (v : Word)
    (h : (td.getLsbD 9 = true ∧ td.extractLsb' 0 2 ≠ 0#2) ∨ (td.getLsbD 9 = false ∧ td.getLsbD 8 = true)) :
    exec (decodeTd td v) s = .next (s.refuse (td.getLsbD 10)) := by
  obtain ⟨hbit0, hbit1, hreg⟩ := exec_refused s (td.getLsbD 10) (td.setWidth 9)
  rcases h with ⟨hwide, hlow⟩ | ⟨hbyte, hhigh⟩
  · rcases decodeTd_misaligned v hwide hlow with hrow | hrow
    · rw [hrow, hbit0]
    · rw [hrow, hbit1]
  · rw [decodeTd_byteReg v hbyte hhigh, hreg]

/-- Settles O23: each refused access is `refuse`, whether a row, a descriptor or a turn asks for it. -/
theorem refusedAccessesSetBusErrOnly : Obligations.RefusedAccessesSetBusErrOnly := by
  intro s refused
  have hrefuse (w : Bool) : s.refuse w = refused w := State.refuse_eq s w
  refine ⟨fun w off => ?_, fun td v h => ⟨decodeTd td v, rfl, ?_⟩, fun w off rest j hj ht => ?_⟩
  · simpa only [hrefuse] using exec_refused s w off
  · rw [exec_decodeTd_refused v h, hrefuse]
  · rw [step_otherWidth hj ht, State.refuse_eq]; rfl

theorem refusedAccess_word (a : Nat) : refusedAccess a .word = true ↔ a % 4 ≠ 0 := by simp [refusedAccess]

/-- A 32-bit read goes through at an aligned offset and is refused at another (20_memory.md R47). -/
theorem read32_cases (s : State) (a : Nat) (w : Word) :
    let answer : Answer := if refusedAccess a .word then .next (s.refuse false) else .next (s.returns w)
    (a % 4 = 0 → answer = .next { s with rdata := w }) ∧
    (a % 4 ≠ 0 → answer = .next { s with busErr := true, rdata := 0#32 }) :=
  ⟨fun h => if_neg (by simp [refusedAccess_word, h]), fun h => if_pos ((refusedAccess_word a).2 h)⟩

/-- Settles O25: the word of the four bytes is `readLe_four`. -/
theorem rd32BufReturnsFourBytesLittleEndian : Obligations.Rd32BufReturnsFourBytesLittleEndian := by
  intro s a
  rw [← State.readLe_four]
  exact read32_cases s a.toNat _

/-- No register stands at 0x14C or above (20_memory.md R45). -/
theorem State.readRegister_reserved (s : State) {off : BitVec 9} (h : 0x14C ≤ off.toNat) :
    s.readRegister off = 0#32 := by
  have hne (r : BitVec 9) (hr : r.toNat < 0x14C) : off ≠ r := by rintro rfl; omega
  simp [State.readRegister, hne]

/-- A field in the low bits of a register: zeros stand above it (10_state.md R36). -/
theorem field_eq_zero_append {n : Nat} (k : Nat) (x : BitVec n) (h : k + n = 32) :
    x.setWidth 32 = (0#k ++ x).cast h := by
  obtain rfl : k = 32 - n := by omega
  exact BitVec.setWidth_eq_append (by omega)

/-- The words of NONCE, the first byte of each in bits 7:0 (10_state.md R26). -/
theorem nonceWord_eq (nonce : Vector Byte 13) (k : Fin 10) :
    nonceWord nonce k = nonce[k.val + 3] ++ nonce[k.val + 2] ++ nonce[k.val + 1] ++ nonce[k.val] := word32_eq _ _ _ _

/-- Settles O26: the refusal of `read32_cases`, the register at each offset, and `readRegister_reserved`. -/
theorem rd32RegReturnsTheRegister : Obligations.Rd32RegReturnsTheRegister := by
  intro s
  refine ⟨fun off => (read32_cases s off.toNat _).1, fun off => (read32_cases s off.toNat _).2,
    field_eq_zero_append 24 s.frameLen rfl, field_eq_zero_append 16 s.cfgPan rfl,
    field_eq_zero_append 31 (flagBit s.irqEn) rfl, rfl, rfl,
    field_eq_zero_append 16 s.res.fcRaw rfl, rfl, field_eq_zero_append 16 s.res.panId rfl, rfl, rfl, rfl, rfl, rfl, rfl,
    rfl, nonceWord_eq s.res.nonce 0, nonceWord_eq s.res.nonce 4, nonceWord_eq s.res.nonce 8,
    field_eq_zero_append 24 s.res.nonce[12] rfl,
    fun off h _ => s.readRegister_reserved h⟩

end Machine
end Sys2Proof
end

section
/-! The bytes of an instruction's words (30_encoding.md, 20_memory.md R40, R44, log entry 18): `readCode` takes from the
front of a byte list the code whose bytes stand there. -/

namespace Sys2Proof

/-- A 16-bit word is its two bytes. -/
theorem word16_wordByte (w : BitVec 16) : word16 (wordByte w 0) (wordByte w 1) = w := by
  calc word16 (wordByte w 0) (wordByte w 1)
      = w.extractLsb' 0 16 := BitVec.extractLsb'_append_extractLsb'_eq_extractLsb' rfl
    _ = w := BitVec.extractLsb'_eq_self

/-- A 32-bit word is its four bytes. -/
theorem word32_wordByte (w : Word) : word32 (wordByte w 0) (wordByte w 1) (wordByte w 2) (wordByte w 3) = w := by
  have hlow : wordByte w 1 ++ wordByte w 0 = w.extractLsb' 0 16 :=
    BitVec.extractLsb'_append_extractLsb'_eq_extractLsb' rfl
  have hhigh : wordByte w 3 ++ wordByte w 2 = w.extractLsb' 16 16 :=
    BitVec.extractLsb'_append_extractLsb'_eq_extractLsb' rfl
  calc word32 (wordByte w 0) (wordByte w 1) (wordByte w 2) (wordByte w 3)
      = w.extractLsb' 16 16 ++ w.extractLsb' 0 16 := by rw [word32, hlow, hhigh]
    _ = w.extractLsb' 0 32 := BitVec.extractLsb'_append_extractLsb'_eq_extractLsb' rfl
    _ = w := BitVec.extractLsb'_eq_self

/-- The high byte of a descriptor has no bit above the descriptor's eleven. -/
theorem descriptor_high_lt (td : BitVec 11) : (wordByte (td.setWidth 16) 1).toNat < 8 := by
  have htd := td.isLt
  simp only [wordByte, BitVec.extractLsb'_toNat, BitVec.toNat_setWidth, Nat.shiftRight_eq_div_pow]
  omega

theorem descriptor_of_bytes (td : BitVec 11) :
    (word16 (wordByte (td.setWidth 16) 0) (wordByte (td.setWidth 16) 1)).setWidth 11 = td := by
  rw [word16_wordByte, BitVec.setWidth_setWidth_of_le td (by decide), BitVec.setWidth_eq]

/-- A read carries no value: in the bytes of a code there is no place for one (log entry 18). -/
def Code.carriesItsValue : Code → Prop
  | .td11 td value => td.getLsbD 10 = false → value = 0#32
  | _ => True

theorem readCode_td11 (td : BitVec 11) (v : Word) (h : td.getLsbD 10 = false → v = 0#32) (rest : List Byte) :
    readCode .td11 ((Code.td11 td v).bytes ++ rest) = .ok (.td11 td v, rest) := by
  cases hwrite : td.getLsbD 10 with
  | true =>
    simp only [Code.bytes, hwrite, List.cons_append, List.nil_append, readCode, if_pos (descriptor_high_lt td),
      descriptor_of_bytes, word32_wordByte, if_true]
  | false =>
    simp only [Code.bytes, hwrite, List.cons_append, List.nil_append, readCode, if_pos (descriptor_high_lt td),
      descriptor_of_bytes, h hwrite, Bool.false_eq_true, if_false]

theorem readCode_fsm4 (w : BitVec 4) (rest : List Byte) :
    readCode .fsm4 ((Code.fsm4 w).bytes ++ rest) = .ok (.fsm4 w, rest) := by
  have hlt : (w.setWidth 8).toNat < 16 := by
    have hw := w.isLt
    rw [BitVec.toNat_setWidth]
    omega
  have hback : (w.setWidth 8).setWidth 4 = w := by rw [BitVec.setWidth_setWidth_of_le w (by decide), BitVec.setWidth_eq]
  simp only [Code.bytes, List.cons_append, List.nil_append, readCode, if_pos hlt, hback]

/-- `Code.bytes` and `readCode` are inverse to each other in every encoding space. -/
theorem readCode_bytes (c : Code) (h : c.carriesItsValue) (rest : List Byte) :
    readCode c.format (c.bytes ++ rest) = .ok (c, rest) := by
  cases c with
  | cmd32 w => simp only [Code.format, Code.bytes, List.cons_append, List.nil_append, readCode, word32_wordByte]
  | td11 td v => exact readCode_td11 td v h rest
  | fsm4 w => exact readCode_fsm4 w rest
  | fc16 w | dst16 w | src16 w =>
    simp only [Code.format, Code.bytes, List.cons_append, List.nil_append, readCode, word16_wordByte]

/-- An instruction that reads is encoded without a value. -/
theorem encode_carriesItsValue (i : Instr) : (encode i).carriesItsValue := by
  cases i with
  | wrCmd v => intro hread; exact absurd hread (by decide)
  | wr8 offset v | wr32Buf offset v | wr32Reg offset v =>
    intro hread
    rw [tdOf_write] at hread
    cases hread
  | refusedMisalignedBit0 | refusedMisalignedBit1 | refusedByteReg | rd8 | rd32Buf | rd32Reg => exact fun _ => rfl
  | _ => trivial

/-- The words of a well-formed instruction are decoded to it: one law per row of the opcode table. -/
theorem decode_encode (i : Instr) : Laws.DecodeEncode.Statement i :=
  match i with
  | .nop => Laws.DecodeEncode.nop
  | .parse => Laws.DecodeEncode.parse
  | .clear => Laws.DecodeEncode.clear
  | .cmdUndefined code => Laws.DecodeEncode.cmdUndefined code
  | .wrCmd v => Laws.DecodeEncode.wrCmd v
  | .refusedMisalignedBit0 w off => Laws.DecodeEncode.refusedMisalignedBit0 w off
  | .refusedMisalignedBit1 w off => Laws.DecodeEncode.refusedMisalignedBit1 w off
  | .refusedByteReg w off => Laws.DecodeEncode.refusedByteReg w off
  | .rd8 off => Laws.DecodeEncode.rd8 off
  | .wr8 off v => Laws.DecodeEncode.wr8 off v
  | .rd32Buf off => Laws.DecodeEncode.rd32Buf off
  | .wr32Buf off v => Laws.DecodeEncode.wr32Buf off v
  | .rd32Reg off => Laws.DecodeEncode.rd32Reg off
  | .wr32Reg off v => Laws.DecodeEncode.wr32Reg off v
  | .sIdle => Laws.DecodeEncode.sIdle
  | .sFc => Laws.DecodeEncode.sFc
  | .sAck => Laws.DecodeEncode.sAck
  | .sSeq => Laws.DecodeEncode.sSeq
  | .sDst => Laws.DecodeEncode.sDst
  | .sSrcPan => Laws.DecodeEncode.sSrcPan
  | .sSrc => Laws.DecodeEncode.sSrc
  | .sBound => Laws.DecodeEncode.sBound
  | .sFilter => Laws.DecodeEncode.sFilter
  | .sSegment => Laws.DecodeEncode.sSegment
  | .sNonce => Laws.DecodeEncode.sNonce
  | .sCcmWait => Laws.DecodeEncode.sCcmWait
  | .sDone => Laws.DecodeEncode.sDone
  | .rejReservedBit fc => Laws.DecodeEncode.rejReservedBit fc
  | .rejSeqSuppression fc => Laws.DecodeEncode.rejSeqSuppression fc
  | .rejIePresent fc => Laws.DecodeEncode.rejIePresent fc
  | .rejVersion1 fc => Laws.DecodeEncode.rejVersion1 fc
  | .rejVersion2 fc => Laws.DecodeEncode.rejVersion2 fc
  | .rejVersion3 fc => Laws.DecodeEncode.rejVersion3 fc
  | .rejDstModeReserved fc => Laws.DecodeEncode.rejDstModeReserved fc
  | .rejSrcModeReserved fc => Laws.DecodeEncode.rejSrcModeReserved fc
  | .ftBeacon fc => Laws.DecodeEncode.ftBeacon fc
  | .ftData fc => Laws.DecodeEncode.ftData fc
  | .ftAck fc => Laws.DecodeEncode.ftAck fc
  | .ftMacCommand fc => Laws.DecodeEncode.ftMacCommand fc
  | .ftReserved fc => Laws.DecodeEncode.ftReserved fc
  | .ftMultipurpose fc => Laws.DecodeEncode.ftMultipurpose fc
  | .ftFragment fc => Laws.DecodeEncode.ftFragment fc
  | .ftExtended fc => Laws.DecodeEncode.ftExtended fc
  | .damNone fc => Laws.DecodeEncode.damNone fc
  | .damShort fc => Laws.DecodeEncode.damShort fc
  | .damLong fc => Laws.DecodeEncode.damLong fc
  | .samNone fc => Laws.DecodeEncode.samNone fc
  | .samShort fc => Laws.DecodeEncode.samShort fc
  | .samLong fc => Laws.DecodeEncode.samLong fc

/-- Settles O1: the bytes give back the words (`readCode_bytes`), and the words the instruction (`decode_encode`). -/
theorem bytesOfAnInstructionDecodeToIt : Obligations.BytesOfAnInstructionDecodeToIt := by
  intro i hwf rest
  simp only [decodeBytes, readCode_bytes (encode i) (encode_carriesItsValue i) rest, decode_encode i hwf]

end Sys2Proof
end

section
/-! A frame-control word is its eleven fields (30_encoding.md R62, R63): the slices are put back one by one, from
bit 0 on. -/

namespace Sys2Proof

/-- The bits of a word below `k`, the others 0. -/
def lowBits (w : BitVec 16) (k : Nat) : BitVec 16 := (w.extractLsb' 0 k).setWidth 16

/-- A slice put back where it was taken joins the bits below it. -/
theorem lowBits_or_slice (w : BitVec 16) {lo n : Nat} (h : lo + n ≤ 16) :
    lowBits w lo ||| ((w.extractLsb' lo n).setWidth 16 <<< lo) = lowBits w (lo + n) := by
  apply BitVec.eq_of_getLsbD_eq
  intro k hk
  simp only [lowBits, BitVec.getLsbD_or, BitVec.getLsbD_shiftLeft, BitVec.getLsbD_setWidth, BitVec.getLsbD_extractLsb',
    hk, Nat.zero_add]
  rcases Nat.lt_or_ge k lo with hbelow | hfrom
  · simp [hbelow, Nat.lt_add_right n hbelow]
  · have hin : k - lo < n ↔ k < lo + n := by omega
    have hthere : lo + (k - lo) = k := by omega
    simp [Nat.not_lt.2 hfrom, hin, hthere]
    omega

/-- Settles O3: the slices follow each other from bit 0 to bit 15, so each joins the ones before it. -/
theorem frameControlFieldsRoundTrip : Obligations.FrameControlFieldsRoundTrip := by
  intro w
  have hjoin (lo n : Nat) (h : lo + n ≤ 16 := by decide) := lowBits_or_slice w h
  calc encodeFrameControl (decodeFrameControl w)
      = lowBits w 3 ||| ((w.extractLsb' 3 1).setWidth 16 <<< 3) ||| ((w.extractLsb' 4 1).setWidth 16 <<< 4) |||
          ((w.extractLsb' 5 1).setWidth 16 <<< 5) ||| ((w.extractLsb' 6 1).setWidth 16 <<< 6) |||
          ((w.extractLsb' 7 1).setWidth 16 <<< 7) ||| ((w.extractLsb' 8 1).setWidth 16 <<< 8) |||
          ((w.extractLsb' 9 1).setWidth 16 <<< 9) ||| ((w.extractLsb' 10 2).setWidth 16 <<< 10) |||
          ((w.extractLsb' 12 2).setWidth 16 <<< 12) ||| ((w.extractLsb' 14 2).setWidth 16 <<< 14) := rfl
    _ = lowBits w 16 := by
      rw [hjoin 3 1, hjoin 4 1, hjoin 5 1, hjoin 6 1, hjoin 7 1, hjoin 8 1, hjoin 9 1, hjoin 10 2, hjoin 12 2,
        hjoin 14 2]
    _ = w := by rw [lowBits, BitVec.extractLsb'_eq_self, BitVec.setWidth_eq]

end Sys2Proof
end

section
/-! The row a transaction descriptor selects (30_encoding.md R82): one equation of `decodeTd` per row. -/

namespace Sys2Proof

variable {td : BitVec 11} {v : Word}

/-- The two low bits of a descriptor, as one field and one by one (20_memory.md R46). -/
theorem low_eq_zero_iff : td.extractLsb' 0 2 = 0#2 ↔ td.getLsbD 0 = false ∧ td.getLsbD 1 = false := by
  constructor
  · intro h
    exact ⟨by simpa using congrArg (BitVec.getLsbD · 0) h, by simpa using congrArg (BitVec.getLsbD · 1) h⟩
  · rintro ⟨h0, h1⟩
    by_contra hlow
    exact (bit_of_misaligned hlow).elim (ne_true_of_eq_false h0) (ne_true_of_eq_false h1)

theorem decodeTd_wrCmd (h : td = 0x70C#11) : decodeTd td v = .wrCmd v := if_pos h

theorem decodeTd_misalignedBit0 (hwide : td.getLsbD 9 = true) (h0 : td.getLsbD 0 = true) :
    decodeTd td v = .refusedMisalignedBit0 (td.getLsbD 10) (td.setWidth 9) := by
  have hcmd : td ≠ 0x70C#11 := by rintro rfl; exact absurd h0 (by decide)
  simp only [decodeTd, if_neg hcmd, hwide, h0]
  rfl

theorem decodeTd_misalignedBit1 (hwide : td.getLsbD 9 = true) (h0 : td.getLsbD 0 = false) (h1 : td.getLsbD 1 = true) :
    decodeTd td v = .refusedMisalignedBit1 (td.getLsbD 10) (td.setWidth 9) := by
  have hcmd : td ≠ 0x70C#11 := by rintro rfl; exact absurd h1 (by decide)
  simp only [decodeTd, if_neg hcmd, hwide, h0, h1]
  rfl

/-- An 8-bit access below 0x100. -/
theorem decodeTd_byte (hbyte : td.getLsbD 9 = false) (hlow : td.getLsbD 8 = false) :
    decodeTd td v = if td.getLsbD 10 then .wr8 (td.setWidth 8) v else .rd8 (td.setWidth 8) := by
  have hcmd : td ≠ 0x70C#11 := by rintro rfl; exact absurd hbyte (by decide)
  simp only [decodeTd, if_neg hcmd, hbyte, hlow]
  cases td.getLsbD 10 <;> rfl

/-- A 32-bit access to FRAME_BUF, aligned. -/
theorem decodeTd_buf (hwide : td.getLsbD 9 = true) (hhigh : td.getLsbD 8 = false) (h0 : td.getLsbD 0 = false)
    (h1 : td.getLsbD 1 = false) :
    decodeTd td v = if td.getLsbD 10 then .wr32Buf (td.setWidth 8) v else .rd32Buf (td.setWidth 8) := by
  have hcmd : td ≠ 0x70C#11 := by rintro rfl; exact absurd hhigh (by decide)
  simp only [decodeTd, if_neg hcmd, hwide, hhigh, h0, h1]
  cases td.getLsbD 10 <;> rfl

/-- A 32-bit access to a register, aligned, and no write of CMD. -/
theorem decodeTd_reg (hcmd : td ≠ 0x70C#11) (hwide : td.getLsbD 9 = true) (hhigh : td.getLsbD 8 = true)
    (h0 : td.getLsbD 0 = false) (h1 : td.getLsbD 1 = false) :
    decodeTd td v = if td.getLsbD 10 then .wr32Reg (td.setWidth 9) v else .rd32Reg (td.setWidth 9) := by
  simp only [decodeTd, if_neg hcmd, hwide, hhigh, h0, h1]
  cases td.getLsbD 10 <;> rfl

/-- Settles O5: the equation of `decodeTd` for each pattern. -/
theorem transactionPatternsFirstMatchWins : Obligations.TransactionPatternsFirstMatchWins := by
  intro td v
  have hdecode : decode (.td11 td v) = .ok (decodeTd td v) := rfl
  have hoffset9 : td.extractLsb' 0 9 = td.setWidth 9 := (BitVec.setWidth_eq_extractLsb' (by decide)).symm
  have hoffset8 : td.extractLsb' 0 8 = td.setWidth 8 := (BitVec.setWidth_eq_extractLsb' (by decide)).symm
  have haligned (h : ¬ td.extractLsb' 0 2 ≠ 0#2) := low_eq_zero_iff.1 (not_not.1 h)
  have hread (h : td.getLsbD 10 = false) : td ≠ 0x70C#11 := by rintro rfl; exact absurd h (by decide)
  simp only [hdecode, hoffset9, hoffset8, Except.ok.injEq]
  refine ⟨decodeTd_wrCmd, ?_, ?_, ?_, ?_, ?_, ?_, ?_, ?_⟩
  · rintro ⟨hwide, hlow⟩
    exact decodeTd_misaligned v hwide hlow
  · rintro ⟨hbyte, hhigh⟩
    exact decodeTd_byteReg v hbyte hhigh
  · rintro ⟨hw, hbyte, hhigh⟩
    exact (decodeTd_byte hbyte hhigh).trans (if_neg (ne_true_of_eq_false hw))
  · rintro ⟨hw, hbyte, hhigh⟩
    exact (decodeTd_byte hbyte hhigh).trans (if_pos hw)
  · rintro ⟨hw, hwide, hhigh, hlow⟩
    obtain ⟨h0, h1⟩ := haligned hlow
    exact (decodeTd_buf hwide hhigh h0 h1).trans (if_neg (ne_true_of_eq_false hw))
  · rintro ⟨hw, hwide, hhigh, hlow⟩
    obtain ⟨h0, h1⟩ := haligned hlow
    exact (decodeTd_buf hwide hhigh h0 h1).trans (if_pos hw)
  · rintro ⟨hw, hwide, hhigh, hlow⟩
    obtain ⟨h0, h1⟩ := haligned hlow
    exact (decodeTd_reg (hread hw) hwide hhigh h0 h1).trans (if_neg (ne_true_of_eq_false hw))
  · rintro ⟨hw, hwide, hhigh, hlow, hcmd⟩
    obtain ⟨h0, h1⟩ := haligned hlow
    exact (decodeTd_reg hcmd hwide hhigh h0 h1).trans (if_pos hw)

end Sys2Proof
end

section
/-! The row a frame-control word belongs to (30_encoding.md R75, R64, 41_frame_control.md R116): the first check that
fails, else the frame type. -/

namespace Sys2Proof

variable {fc : BitVec 16}

/-- A field of one bit. -/
theorem oneBit_eq_one_iff (fc : BitVec 16) (k : Nat) : fc.extractLsb' k 1 = 1#1 ↔ fc.getLsbD k = true := by
  have hbit : (fc.extractLsb' k 1).getLsbD 0 = fc.getLsbD k := by simp
  rw [← hbit]
  generalize fc.extractLsb' k 1 = b
  revert b
  decide

theorem oneBit_ne_one_iff (fc : BitVec 16) (k : Nat) : fc.extractLsb' k 1 ≠ 1#1 ↔ fc.getLsbD k = false := by
  rw [Ne, oneBit_eq_one_iff, Bool.not_eq_true]

/-- Settles O6: what `classifyFc` answers at the first failing check, and the frame type of a word that passes all. -/
theorem firstFailingCheckGivesTheRow : Obligations.FirstFailingCheckGivesTheRow := by
  intro fc
  have hrow {c : FcClass} (h : classifyFc fc = c) := Laws.DecodeEncode.decodeFc_of_class h
  simp only [← oneBit_eq_one_iff, ← oneBit_ne_one_iff]
  refine ⟨fun hrsv => hrow (classifyFc_rsv hrsv), ?_, ?_, ?_, ?_, ?_, ?_, ?_, ?_⟩
  · rintro ⟨hrsv, hsns⟩
    exact hrow (classifyFc_sns hrsv hsns)
  · rintro ⟨hrsv, hsns, hiep⟩
    exact hrow (classifyFc_iep hrsv hsns hiep)
  · rintro ⟨hrsv, hsns, hiep, hfv⟩
    exact hrow ((classifyFc_version hrsv hsns hiep).1 hfv)
  · rintro ⟨hrsv, hsns, hiep, hfv⟩
    exact hrow ((classifyFc_version hrsv hsns hiep).2.1 hfv)
  · rintro ⟨hrsv, hsns, hiep, hfv⟩
    exact hrow ((classifyFc_version hrsv hsns hiep).2.2 hfv)
  · rintro ⟨hrsv, hsns, hiep, hfv, hdam⟩
    exact hrow (classifyFc_dam hrsv hsns hiep hfv hdam)
  · rintro ⟨hrsv, hsns, hiep, hfv, hdam, hsam⟩
    exact hrow (classifyFc_sam hrsv hsns hiep hfv hdam hsam)
  · rintro ⟨hrsv, hsns, hiep, hfv, hdam, hsam⟩
    have htype {v : BitVec 3} (h : fc.extractLsb' 0 3 = v) : decode (.fc16 fc) = .ok ((ftClass v).row fc) :=
      hrow ((classifyFc_accepted hrsv hsns hiep hfv hdam hsam).trans (congrArg ftClass h))
    exact ⟨htype, htype, htype, htype, htype, htype, htype, htype⟩

end Sys2Proof
end

section
/-! Each decoder against well-formedness and the encoder: what it reads stands for the word it was read from. -/

namespace Sys2Proof

/-! ## Values written to CMD (30_encoding.md R70) -/

theorem decodeCmd_sound (w : Word) : (decodeCmd w).wellFormed = true ∧ encode (decodeCmd w) = .cmd32 w := by
  by_cases hnop : w = 0#32
  · subst hnop; exact ⟨rfl, rfl⟩
  by_cases hparse : w = 1#32
  · subst hparse; exact ⟨rfl, rfl⟩
  by_cases hclear : w = 2#32
  · subst hclear; exact ⟨rfl, rfl⟩
  have hundefined : decodeCmd w = .cmdUndefined w := by
    simp only [decodeCmd, classifyCmd, hnop, hparse, hclear, if_false]
  rw [hundefined]
  exact ⟨by simp [Instr.wellFormed, hnop, hparse, hclear], rfl⟩

/-! ## Transaction descriptors (30_encoding.md R82) -/

/-- The row of a descriptor with its value, and the bits that select it. -/
inductive TdRow (td : BitVec 11) (v : Word) : Instr → Prop where
  | wrCmd (h : td = 0x70C#11) : TdRow td v (.wrCmd v)
  | bit0 (hwide : td.getLsbD 9 = true) (h0 : td.getLsbD 0 = true) :
      TdRow td v (.refusedMisalignedBit0 (td.getLsbD 10) (td.setWidth 9))
  | bit1 (hwide : td.getLsbD 9 = true) (h0 : td.getLsbD 0 = false) (h1 : td.getLsbD 1 = true) :
      TdRow td v (.refusedMisalignedBit1 (td.getLsbD 10) (td.setWidth 9))
  | byteReg (hbyte : td.getLsbD 9 = false) (hhigh : td.getLsbD 8 = true) :
      TdRow td v (.refusedByteReg (td.getLsbD 10) (td.setWidth 9))
  | rd8 (hw : td.getLsbD 10 = false) (hbyte : td.getLsbD 9 = false) (hlow : td.getLsbD 8 = false) :
      TdRow td v (.rd8 (td.setWidth 8))
  | wr8 (hw : td.getLsbD 10 = true) (hbyte : td.getLsbD 9 = false) (hlow : td.getLsbD 8 = false) :
      TdRow td v (.wr8 (td.setWidth 8) v)
  | rd32Buf (hw : td.getLsbD 10 = false) (hwide : td.getLsbD 9 = true) (hlow : td.getLsbD 8 = false)
      (haligned : td.extractLsb' 0 2 = 0#2) : TdRow td v (.rd32Buf (td.setWidth 8))
  | wr32Buf (hw : td.getLsbD 10 = true) (hwide : td.getLsbD 9 = true) (hlow : td.getLsbD 8 = false)
      (haligned : td.extractLsb' 0 2 = 0#2) : TdRow td v (.wr32Buf (td.setWidth 8) v)
  | rd32Reg (hw : td.getLsbD 10 = false) (hwide : td.getLsbD 9 = true) (hhigh : td.getLsbD 8 = true)
      (haligned : td.extractLsb' 0 2 = 0#2) : TdRow td v (.rd32Reg (td.setWidth 9))
  | wr32Reg (hw : td.getLsbD 10 = true) (hwide : td.getLsbD 9 = true) (hhigh : td.getLsbD 8 = true)
      (haligned : td.extractLsb' 0 2 = 0#2) (hcmd : td ≠ 0x70C#11) : TdRow td v (.wr32Reg (td.setWidth 9) v)

theorem decodeTd_row (td : BitVec 11) (v : Word) : TdRow td v (decodeTd td v) := by
  by_cases hcmd : td = 0x70C#11
  · rw [decodeTd_wrCmd hcmd]; exact .wrCmd hcmd
  cases hwide : td.getLsbD 9 with
  | false =>
    cases hhigh : td.getLsbD 8 with
    | true => rw [decodeTd_byteReg v hwide hhigh]; exact .byteReg hwide hhigh
    | false =>
      rw [decodeTd_byte hwide hhigh]
      split
      · next hw => exact .wr8 hw hwide hhigh
      · next hr => exact .rd8 (Bool.eq_false_of_not_eq_true hr) hwide hhigh
  | true =>
    cases h0 : td.getLsbD 0 with
    | true => rw [decodeTd_misalignedBit0 hwide h0]; exact .bit0 hwide h0
    | false =>
      cases h1 : td.getLsbD 1 with
      | true => rw [decodeTd_misalignedBit1 hwide h0 h1]; exact .bit1 hwide h0 h1
      | false =>
        have haligned := low_eq_zero_iff.2 ⟨h0, h1⟩
        cases hhigh : td.getLsbD 8 with
        | false =>
          rw [decodeTd_buf hwide hhigh h0 h1]
          split
          · next hw => exact .wr32Buf hw hwide hhigh haligned
          · next hr => exact .rd32Buf (Bool.eq_false_of_not_eq_true hr) hwide hhigh haligned
        | true =>
          rw [decodeTd_reg hcmd hwide hhigh h0 h1]
          split
          · next hw => exact .wr32Reg hw hwide hhigh haligned hcmd
          · next hr => exact .rd32Reg (Bool.eq_false_of_not_eq_true hr) hwide hhigh haligned

variable {td : BitVec 11} {v : Word}

/-- A bit of the offset is the descriptor's bit. -/
theorem offset_bit (td : BitVec 11) {k : Nat} (hk : k < 9) : (td.setWidth 9).getLsbD k = td.getLsbD k := by
  simp [hk]

/-- A descriptor is its direction, its width and its offset. -/
theorem tdOf_of_bits {w d : Bool} (hw : td.getLsbD 10 = w) (hd : td.getLsbD 9 = d) : tdOf w d (td.setWidth 9) = td := by
  apply BitVec.eq_of_getLsbD_eq
  intro k hk
  obtain hoff | rfl | rfl : k < 9 ∨ k = 9 ∨ k = 10 := by omega
  · rw [tdOf_bit _ _ _ hoff, offset_bit td hoff]
  · rw [tdOf_wide, hd]
  · rw [tdOf_write, hw]

/-- Below 0x100 the offset is its low eight bits. -/
theorem tdOf_of_low_bits {w d : Bool} (hw : td.getLsbD 10 = w) (hd : td.getLsbD 9 = d) (hlow : td.getLsbD 8 = false) :
    tdOf w d ((td.setWidth 8).setWidth 9) = td := by
  have hoffset : (td.setWidth 8).setWidth 9 = td.setWidth 9 := by
    apply BitVec.eq_of_getLsbD_eq
    intro k hk
    rw [offset_bit td hk, BitVec.getLsbD_setWidth, BitVec.getLsbD_setWidth]
    obtain hbelow | rfl : k < 8 ∨ k = 8 := by omega
    · simp [hk, hbelow]
    · rw [hlow]; rfl
  rw [hoffset, tdOf_of_bits hw hd]

/-- The two low bits of a descriptor are those of its offset (20_memory.md R46). -/
theorem alignedOffset_setWidth {n : Nat} (hn : 2 ≤ n) (h : td.extractLsb' 0 2 = 0#2) :
    alignedOffset (td.setWidth n).toNat = true := by
  have hlow : td.toNat % 4 = 0 := by simpa using congrArg BitVec.toNat h
  have hdvd : 4 ∣ 2 ^ n := pow_dvd_pow 2 hn
  simp only [alignedOffset, BitVec.toNat_setWidth, beq_iff_eq, Nat.mod_mod_of_dvd _ hdvd, hlow]

/-- The row of a descriptor is well-formed. -/
theorem TdRow.wellFormed {i : Instr} (h : TdRow td v i) : i.wellFormed = true := by
  have hoffset {k : Nat} (hk : k < 9) := offset_bit td hk
  cases h with
  | wrCmd | rd8 | wr8 => rfl
  | bit0 hwide h0 => exact (hoffset (by decide)).trans h0
  | bit1 hwide h0 h1 =>
    simp only [Instr.wellFormed, hoffset (show 0 < 9 by decide), hoffset (show 1 < 9 by decide), h0, h1]
    rfl
  | byteReg hbyte hhigh => exact (hoffset (by decide)).trans hhigh
  | rd32Buf _ _ _ haligned | wr32Buf _ _ _ haligned => exact alignedOffset_setWidth (by decide) haligned
  | rd32Reg hw hwide hhigh haligned =>
    simp only [Instr.wellFormed, hoffset (show 8 < 9 by decide), hhigh,
      alignedOffset_setWidth (show 2 ≤ 9 by decide) haligned]
    rfl
  | wr32Reg hw hwide hhigh haligned hcmd =>
    have hother : td.setWidth 9 ≠ 0x10C#9 := fun hoff =>
      hcmd ((tdOf_of_bits hw hwide).symm.trans ((tdOf_eq_cmd _ _ _).2 ⟨rfl, rfl, hoff⟩))
    simp only [Instr.wellFormed, hoffset (show 8 < 9 by decide), hhigh,
      alignedOffset_setWidth (show 2 ≤ 9 by decide) haligned, Bool.and_self, Bool.true_and, bne_iff_ne]
    exact hother

/-! ## Frame-control words (30_encoding.md R75, R64, R65) -/

variable {fc : BitVec 16}

theorem encode_row (c : FcClass) (fc : BitVec 16) : encode (c.row fc) = .fc16 fc := by
  cases c <;> rfl

/-- The row of a frame type asks for a word that passes every check, with that type. -/
theorem ftClass_row_wellFormed (ft : BitVec 3) (fc : BitVec 16) :
    ((ftClass ft).row fc).wellFormed = (fcPasses fc 6 && fcHas fc 2 0 ft.toNat) := by
  have htypes : ∀ t : BitVec 3, t = 0#3 ∨ t = 1#3 ∨ t = 2#3 ∨ t = 3#3 ∨ t = 4#3 ∨ t = 5#3 ∨ t = 6#3 ∨ t = 7#3 := by
    decide
  rcases htypes ft with rfl | rfl | rfl | rfl | rfl | rfl | rfl | rfl <;> rfl

/-- The row a word is read as is the first whose check fails, so the checks before it pass. -/
theorem decodeFc_wellFormed (fc : BitVec 16) : (decodeFc fc).wellFormed = true := by
  have hboth {n hi lo val : Nat} (hp : fcPasses fc n = true) (hb : fcHas fc hi lo val = true) :
      (fcPasses fc n && fcHas fc hi lo val) = true := Bool.and_eq_true_iff.2 ⟨hp, hb⟩
  unfold decodeFc
  by_cases hrsv : fcRSV fc = 1#1
  · rw [classifyFc_rsv hrsv]; exact (fcHas_RSV fc).2 hrsv
  by_cases hsns : fcSNS fc = 1#1
  · rw [classifyFc_sns hrsv hsns]
    exact hboth ((fcPasses_iff fc 1).2 (by simp [hrsv])) ((fcHas_SNS fc).2 hsns)
  by_cases hiep : fcIEP fc = 1#1
  · rw [classifyFc_iep hrsv hsns hiep]
    exact hboth ((fcPasses_iff fc 2).2 (by simp [hrsv, hsns])) ((fcHas_IEP fc).2 hiep)
  have hbits : fcPasses fc 3 = true := (fcPasses_iff fc 3).2 (by simp [hrsv, hsns, hiep])
  obtain ⟨hv1, hv2, hv3⟩ := classifyFc_version hrsv hsns hiep
  have hversions : ∀ fv : BitVec 2, fv = 1#2 ∨ fv = 2#2 ∨ fv = 3#2 ∨ fv = 0#2 := by decide
  rcases hversions (fcFV fc) with hfv | hfv | hfv | hfv
  · rw [hv1 hfv]; exact hboth hbits ((fcHas_FV fc 1#2).2 hfv)
  · rw [hv2 hfv]; exact hboth hbits ((fcHas_FV fc 2#2).2 hfv)
  · rw [hv3 hfv]; exact hboth hbits ((fcHas_FV fc 3#2).2 hfv)
  by_cases hdam : fcDAM fc = 1#2
  · rw [classifyFc_dam hrsv hsns hiep hfv hdam]
    exact hboth ((fcPasses_iff fc 4).2 (by simp [hrsv, hsns, hiep, hfv])) ((fcHas_DAM fc 1#2).2 hdam)
  by_cases hsam : fcSAM fc = 1#2
  · rw [classifyFc_sam hrsv hsns hiep hfv hdam hsam]
    exact hboth ((fcPasses_iff fc 5).2 (by simp [hrsv, hsns, hiep, hfv, hdam])) ((fcHas_SAM fc 1#2).2 hsam)
  rw [classifyFc_accepted hrsv hsns hiep hfv hdam hsam, ftClass_row_wellFormed]
  exact hboth ((fcPasses_iff fc 6).2 (by simp [hrsv, hsns, hiep, hfv, hdam, hsam])) ((fcHas_FT fc _).2 rfl)

/-- The addressing modes with a row of their own are the codes of their kinds. -/
theorem classifyMode_eq_some_iff (mode : BitVec 2) (kind : AddrKind) :
    classifyMode mode = some kind ↔ mode = Machine.addrKindCode kind := by
  revert mode
  cases kind <;> decide

theorem decodeDst_sound {i : Instr} (h : decodeDst fc = .ok i) : i.wellFormed = true ∧ encode i = .dst16 fc := by
  unfold decodeDst at h
  split at h <;> cases h
  case h_1 hmode => exact ⟨(fcHas_DAM fc 0#2).2 ((classifyMode_eq_some_iff _ _).1 hmode), rfl⟩
  case h_2 hmode => exact ⟨(fcHas_DAM fc 2#2).2 ((classifyMode_eq_some_iff _ _).1 hmode), rfl⟩
  case h_3 hmode => exact ⟨(fcHas_DAM fc 3#2).2 ((classifyMode_eq_some_iff _ _).1 hmode), rfl⟩

theorem decodeSrc_sound {i : Instr} (h : decodeSrc fc = .ok i) : i.wellFormed = true ∧ encode i = .src16 fc := by
  unfold decodeSrc at h
  split at h <;> cases h
  case h_1 hmode => exact ⟨(fcHas_SAM fc 0#2).2 ((classifyMode_eq_some_iff _ _).1 hmode), rfl⟩
  case h_2 hmode => exact ⟨(fcHas_SAM fc 2#2).2 ((classifyMode_eq_some_iff _ _).1 hmode), rfl⟩
  case h_3 hmode => exact ⟨(fcHas_SAM fc 3#2).2 ((classifyMode_eq_some_iff _ _).1 hmode), rfl⟩

/-! ## Every code -/

theorem decodeFsm_sound {code : BitVec 4} {i : Instr} (h : decode (.fsm4 code) = .ok i) :
    i.wellFormed = true ∧ encode i = .fsm4 code := by
  rcases Machine.decodeFsm_cases h with ⟨rfl, rfl⟩ | ⟨rfl, rfl⟩ | ⟨rfl, rfl⟩ | ⟨rfl, rfl⟩ | ⟨rfl, rfl⟩ | ⟨rfl, rfl⟩ |
    ⟨rfl, rfl⟩ | ⟨rfl, rfl⟩ | ⟨rfl, rfl⟩ | ⟨rfl, rfl⟩ | ⟨rfl, rfl⟩ | ⟨rfl, rfl⟩ | ⟨rfl, rfl⟩ <;> exact ⟨rfl, rfl⟩

/-- Settles O2: by encoding space, and for a descriptor by the row its bits select. -/
theorem decodedWordsAreWellFormedAndEncodeBack : Obligations.DecodedWordsAreWellFormedAndEncodeBack := by
  intro c i h
  cases c with
  | cmd32 w => cases h; exact decodeCmd_sound w
  | fsm4 w => exact decodeFsm_sound h
  | fc16 w => cases h; exact ⟨decodeFc_wellFormed w, encode_row _ w⟩
  | dst16 w => exact decodeDst_sound h
  | src16 w => exact decodeSrc_sound h
  | td11 td v =>
    have hrow : TdRow td v i := Except.ok.inj h ▸ decodeTd_row td v
    refine ⟨hrow.wellFormed, ?_⟩
    have hword {w d : Bool} (hw : td.getLsbD 10 = w) (hd : td.getLsbD 9 = d) (value : Word) :
        Code.td11 (tdOf w d (td.setWidth 9)) value = .td11 td value := by rw [tdOf_of_bits hw hd]
    have hlow {w d : Bool} (hw : td.getLsbD 10 = w) (hd : td.getLsbD 9 = d) (h8 : td.getLsbD 8 = false) (value : Word) :
        Code.td11 (tdOf w d ((td.setWidth 8).setWidth 9)) value = .td11 td value := by rw [tdOf_of_low_bits hw hd h8]
    cases hrow with
    | wrCmd hcmd => rw [hcmd]; rfl
    | bit0 hwide _ | bit1 hwide _ _ => exact hword rfl hwide _
    | byteReg hbyte _ => exact hword rfl hbyte _
    | rd8 hw hbyte h8 | wr8 hw hbyte h8 => exact hlow hw hbyte h8 _
    | rd32Buf hw hwide h8 _ | wr32Buf hw hwide h8 _ => exact hlow hw hwide h8 _
    | rd32Reg hw hwide _ _ | wr32Reg hw hwide _ _ _ => exact hword hw hwide _

end Sys2Proof
end

section
/-! The stops of the machine (30_encoding.md R71, 93_implementation_defined.md row 13): no instruction refuses a state
code, so a code that is never entered is the one reason for that refusal. -/

namespace Sys2Proof.Machine

/-- An answer that refuses nothing but the reserved addressing mode (42_addressing.md R131, R137). -/
def RefusesModeOnly (a : Answer) : Prop := ∀ r, a = .refused r → r = .reservedAddressingMode

variable {s : State}

theorem RefusesModeOnly.next (t : State) : RefusesModeOnly (.next t) := nofun

theorem RefusesModeOnly.fault (f : Fault) : RefusesModeOnly (.fault f) := nofun

theorem RefusesModeOnly.mode : RefusesModeOnly (.refused .reservedAddressingMode) := by
  rintro _ ⟨⟩
  rfl

theorem RefusesModeOnly.ite {c : Prop} [Decidable c] {a b : Answer} (ha : RefusesModeOnly a) (hb : RefusesModeOnly b) :
    RefusesModeOnly (if c then a else b) := by
  split
  · exact ha
  · exact hb

/-- `fsmRead` goes on with the value read, or stops with a fault. -/
theorem RefusesModeOnly.fsmRead {a n : Nat} {k : Nat → Answer} (hk : ∀ v, RefusesModeOnly (k v)) :
    RefusesModeOnly (fsmRead s a n k) := .ite (hk _) (.fault _)

/-- A field at OFF: the parse ends for want of bytes, or goes on with the value. -/
theorem RefusesModeOnly.need_read {a n : Nat} {code : BitVec 8} {k : Nat → Answer} (hk : ∀ v, RefusesModeOnly (k v)) :
    RefusesModeOnly (need s n code (Machine.fsmRead s a n k)) := .ite (.next _) (.fsmRead hk)

/-! The instructions with more than one answer. -/

theorem refusesModeOnly_wrCmd (v : Word) : RefusesModeOnly (execWrCmd v s) := by
  unfold execWrCmd
  cases classifyCmd v with
  | parse => exact .ite (.next _) (.next _)
  | nop | clear | undefined => exact .next _

theorem refusesModeOnly_runFrameControl (fc : BitVec 16) : RefusesModeOnly (runFrameControl fc s) := by
  obtain ⟨t, ht⟩ := runFrameControl_next fc s
  rw [ht]
  exact .next t

theorem refusesModeOnly_damShort (fc : BitVec 16) : RefusesModeOnly (execDamShort fc s) :=
  .need_read fun _ => .need_read fun _ => .ite (.next _) (.next _)

theorem refusesModeOnly_damLong (fc : BitVec 16) : RefusesModeOnly (execDamLong fc s) :=
  .need_read fun _ => .need_read fun _ => .next _

theorem refusesModeOnly_readSrcAddr (kind : AddrKind) (n : Nat) : RefusesModeOnly (readSrcAddr s kind n) :=
  .need_read fun _ => .next _

theorem refusesModeOnly_sDst : RefusesModeOnly (execSDst s) := by
  rcases hmode : classifyMode (fcDAM s.res.fcRaw) with _ | _ | _ | _
  · rw [execSDst_reserved hmode]; exact .mode
  · rw [execSDst_none hmode]; exact .next _
  · rw [execSDst_short hmode]; exact refusesModeOnly_damShort _
  · rw [execSDst_long hmode]; exact refusesModeOnly_damLong _

theorem refusesModeOnly_sSrc : RefusesModeOnly (execSSrc s) := by
  rcases hmode : classifyMode (fcSAM s.res.fcRaw) with _ | _ | _ | _
  · rw [execSSrc_reserved hmode]; exact .mode
  · rw [execSSrc_none hmode]; exact .next _
  · rw [execSSrc_short hmode]; exact refusesModeOnly_readSrcAddr _ _
  · rw [execSSrc_long hmode]; exact refusesModeOnly_readSrcAddr _ _

theorem refusesModeOnly_sCcmWait : RefusesModeOnly (execSCcmWait s) := by
  rcases hdone : s.ccmDone with _ | ok
  · rw [execSCcmWait_waits hdone]; exact .next _
  · rw [execSCcmWait_answered hdone]; exact .next _

/-- No instruction refuses anything but the reserved addressing mode, in any state. -/
theorem refusesModeOnly_exec (i : Instr) (s : State) : RefusesModeOnly (exec i s) := by
  cases i with
  | nop | clear | cmdUndefined | refusedMisalignedBit0 | refusedMisalignedBit1 | refusedByteReg => exact .next _
  | parse => exact .ite (.next _) (.next _)
  | wrCmd v => exact refusesModeOnly_wrCmd v
  | rd8 | rd32Buf | rd32Reg => exact .ite (.next _) (.next _)
  | wr8 | wr32Buf => exact .ite (.next _) (.ite (.next _) (.next _))
  | wr32Reg =>
    exact .ite (.next _) <| .ite (.ite (.next _) (.next _)) <| .ite (.ite (.next _) (.next _)) <|
      .ite (.next _) (.next _)
  | sIdle | sDone => exact .next _
  | sFc => exact .ite (.next _) (.fsmRead fun _ => refusesModeOnly_runFrameControl _)
  | sAck => exact .ite (.fsmRead fun _ => .next _) (.next _)
  | sSeq | sSrcPan => exact .need_read fun _ => .next _
  | sDst => exact refusesModeOnly_sDst
  | sSrc => exact refusesModeOnly_sSrc
  | sBound => exact .ite (.next _) (.next _)
  | sFilter => exact .ite (.next _) (.ite (.next _) (.next _))
  | sSegment | sNonce => exact .ite (.next _) (.fsmRead fun _ => .next _)
  | sCcmWait => exact refusesModeOnly_sCcmWait
  | rejReservedBit | rejSeqSuppression | rejIePresent | rejVersion1 | rejVersion2 | rejVersion3 | rejDstModeReserved
  | rejSrcModeReserved => exact .next _
  | ftBeacon | ftData | ftAck | ftMacCommand | ftReserved | ftMultipurpose | ftFragment | ftExtended => exact .next _
  | damNone | samNone => exact .next _
  | damShort fc => exact refusesModeOnly_damShort fc
  | damLong fc => exact refusesModeOnly_damLong fc
  | samShort | samLong => exact refusesModeOnly_readSrcAddr _ _

/-- With a legal code in STATE every turn has a plan. -/
theorem plan_ne_refuse {j : Instr} (hj : decode (.fsm4 s.state) = .ok j) (r : Refusal) : plan s ≠ .refuse r := by
  have hblock {t : State} (ht : decode (.fsm4 t.state) = .ok j) : planBlock t ≠ .refuse r := by
    cases hb : t.busy with
    | true => rw [planBlock_run ht hb]; exact nofun
    | false => rw [planBlock_settle ht hb]; exact nofun
  cases ht : s.turns with
  | nil => rw [plan_nil hj ht]; exact hblock hj
  | cons turn rest =>
    rw [plan_cons hj ht]
    cases turn with
    | block => exact hblock (t := s.setTurns rest) hj
    | host | otherWidth | engine | reset => exact nofun

theorem refusesModeOnly_step {j : Instr} (hj : decode (.fsm4 s.state) = .ok j) : RefusesModeOnly (step s) := by
  unfold step
  cases hplan : plan s with
  | run i t => exact refusesModeOnly_exec i t
  | settle t => exact .next t
  | refuse r => exact absurd hplan (plan_ne_refuse hj r)

/-- The codes without a row of their own (30_encoding.md R71). -/
theorem stateLegal_eq_false_iff (code : BitVec 4) :
    stateLegal code = false ↔ code = 0xC#4 ∨ code = 0xD#4 ∨ code = 0xE#4 := by
  revert code
  decide

theorem decode_of_not_stateLegal {code : BitVec 4} (h : stateLegal code = false) :
    decode (.fsm4 code) = .error .stateNeverEntered := by
  rcases (stateLegal_eq_false_iff code).1 h with rfl | rfl | rfl <;> rfl

/-- Settles O9: a code without a row has no plan, and with one no instruction refuses the code. -/
theorem stateCodesNeverEnteredAreRefused : Obligations.StateCodesNeverEnteredAreRefused := by
  intro s
  rw [← stateLegal_eq_false_iff]
  cases hlegal : stateLegal s.state with
  | false => exact iff_of_true rfl (step_undecoded (decode_of_not_stateLegal hlegal))
  | true =>
    obtain ⟨j, hj⟩ := decode_of_stateLegal hlegal
    exact iff_of_false nofun fun hrefused => absurd (refusesModeOnly_step hj _ hrefused) nofun

/-- Settles O4: each word is decoded by evaluation. -/
theorem specWordsDecodeAsTheSpecSays : Obligations.SpecWordsDecodeAsTheSpecSays :=
  ⟨rfl, rfl, rfl, rfl, rfl, rfl, rfl, rfl, rfl, rfl, rfl, rfl, rfl, rfl⟩

end Sys2Proof.Machine
end

section
/-! The way of a parse (30_encoding.md R74): each step of the FSM lowers the steps left, so none of them enters S_FC. -/

namespace Sys2Proof.Machine

/-- Where the answer is a next state, fewer than `n` steps of the block are left. -/
def LeavesFewer (n : Nat) : Answer → Prop := OnNext fun t => stepsLeft t.state < n

variable {s : State} {n : Nat}

/-! `n` is 1 or more in every use: the end of a parse leaves no step. -/

theorem LeavesFewer.finish (o : ParseOutcome) (r : BitVec 8) (hn : 0 < n := by decide) :
    LeavesFewer n (.next (s.finish o r)) := OnNext.next hn

theorem LeavesFewer.goto {code : BitVec 4} (hn : stepsLeft code < n := by decide) :
    LeavesFewer n (.next (s.goto code)) := OnNext.next hn

theorem LeavesFewer.ite {c : Prop} [Decidable c] {a b : Answer} (ha : LeavesFewer n a) (hb : LeavesFewer n b) :
    LeavesFewer n (if c then a else b) := OnNext.ite (fun _ => ha) fun _ => hb

theorem LeavesFewer.fsmRead {a count : Nat} {k : Nat → Answer} (hk : ∀ v, LeavesFewer n (k v)) :
    LeavesFewer n (fsmRead s a count k) := OnNext.fsmRead hk

/-- `need` ends the parse for want of bytes, or goes on. -/
theorem LeavesFewer.need {count : Nat} {code : BitVec 8} {k : Answer} (hk : LeavesFewer n k) (hn : 0 < n := by decide) :
    LeavesFewer n (need s count code k) := OnNext.need hn hk

/-- A field at OFF: the parse ends for want of bytes, or goes on with what is done with the value. -/
theorem LeavesFewer.need_read {a count : Nat} {code : BitVec 8} {k : Nat → Answer} (hk : ∀ v, LeavesFewer n (k v))
    (hn : 0 < n := by decide) : LeavesFewer n (Machine.need s count code (Machine.fsmRead s a count k)) :=
  .need (.fsmRead hk) hn

/-! One lemma per state of the FSM with a step of its own. -/

theorem leavesFewer_runFrameControl (fc : BitVec 16) : LeavesFewer 9 (runFrameControl fc s) := by
  unfold runFrameControl
  cases classifyFc fc with
  | ftData | ftAck => exact .goto
  | _ => exact .finish _ _

theorem leavesFewer_sFc : LeavesFewer 9 (execSFc s) :=
  .ite (.finish _ _) (.fsmRead fun _ => leavesFewer_runFrameControl _)

theorem leavesFewer_sAck : LeavesFewer 1 (execSAck s) :=
  .ite (.fsmRead fun _ => .finish _ _) (.finish _ _)

theorem leavesFewer_sSeq : LeavesFewer 8 (execSSeq s) := .need_read fun _ => .goto

theorem leavesFewer_sDst : LeavesFewer 7 (execSDst s) := by
  rcases hmode : classifyMode (fcDAM s.res.fcRaw) with _ | _ | _ | _
  · rw [execSDst_reserved hmode]; exact OnNext.refused _
  · rw [execSDst_none hmode]; exact .goto
  · rw [execSDst_short hmode]
    exact .need_read fun _ => .need_read fun _ => .ite .goto .goto
  · rw [execSDst_long hmode]
    exact .need_read fun _ => .need_read fun _ => .goto

theorem leavesFewer_sSrcPan : LeavesFewer 6 (execSSrcPan s) := .need_read fun _ => .goto

theorem leavesFewer_sSrc : LeavesFewer 5 (execSSrc s) := by
  rcases hmode : classifyMode (fcSAM s.res.fcRaw) with _ | _ | _ | _
  · rw [execSSrc_reserved hmode]; exact OnNext.refused _
  · rw [execSSrc_none hmode]; exact .goto
  · rw [execSSrc_short hmode]; exact .need_read fun _ => .goto
  · rw [execSSrc_long hmode]; exact .need_read fun _ => .goto

theorem leavesFewer_sBound : LeavesFewer 4 (execSBound s) := .need .goto

theorem leavesFewer_sFilter : LeavesFewer 3 (execSFilter s) :=
  .ite (.finish _ _) (.ite (.finish _ _) .goto)

theorem leavesFewer_sSegment : LeavesFewer 2 (execSSegment s) :=
  .ite (.finish _ _) (.fsmRead fun _ => .goto)

theorem leavesFewer_sNonce : LeavesFewer 1 (execSNonce s) :=
  .ite (.finish _ _) (.fsmRead fun _ => .goto)

/-- Every step of the block's own lowers the steps left (60_exceptions.md R207). -/
theorem leavesFewer_fsm {i : Instr} (hi : decode (.fsm4 s.state) = .ok i) (hleft : stepsLeft s.state ≠ 0) :
    LeavesFewer (stepsLeft s.state) (exec i s) := by
  rcases decodeFsm_cases hi with ⟨hs, rfl⟩ | ⟨hs, rfl⟩ | ⟨hs, rfl⟩ | ⟨hs, rfl⟩ | ⟨hs, rfl⟩ | ⟨hs, rfl⟩ | ⟨hs, rfl⟩ |
    ⟨hs, rfl⟩ | ⟨hs, rfl⟩ | ⟨hs, rfl⟩ | ⟨hs, rfl⟩ | ⟨hs, rfl⟩ | ⟨hs, rfl⟩ <;> rw [hs] at hleft ⊢
  · exact absurd rfl hleft
  · exact leavesFewer_sFc
  · exact leavesFewer_sAck
  · exact leavesFewer_sSeq
  · exact leavesFewer_sDst
  · exact leavesFewer_sSrcPan
  · exact leavesFewer_sSrc
  · exact leavesFewer_sBound
  · exact leavesFewer_sFilter
  · exact leavesFewer_sSegment
  · exact leavesFewer_sNonce
  · exact absurd rfl hleft
  · exact absurd rfl hleft

/-- No state has more steps left than S_FC. -/
theorem ne_fc_of_stepsLeft_lt {code code' : BitVec 4} (h : stepsLeft code' < stepsLeft code) : code' ≠ FsmCode.fc := by
  rintro rfl
  exact absurd (stepsLeft_le code) (Nat.not_le.2 h)

end Sys2Proof.Machine
end

section
/-! How a turn can change STATE (10_state.md R30, 60_exceptions.md R206, R218). -/

namespace Sys2Proof.Machine

/-- STATE is kept, or a parse that runs goes on, or the turn is PARSE, CLEAR or reset. -/
inductive StateMove (s t : State) : Prop where
  | kept (h : t.state = s.state)
  /-- a step of the block, or the engine's answer -/
  | onward (hb : s.busy = true) (hfc : t.state ≠ FsmCode.fc)
  | parse (hb : s.busy = false) (rest : List Turn) (ht : s.turns = .host 0x70C#11 1#32 :: rest)
  | clear (hidle : t.state = FsmCode.idle) (rest : List Turn) (ht : s.turns = .host 0x70C#11 2#32 :: rest)
  | reset (hidle : t.state = FsmCode.idle) (rest : List Turn) (ht : s.turns = .reset :: rest)

variable {s : State}

theorem StateMove.refuse (ts : List Turn) (write : Bool) : StateMove s ((s.setTurns ts).refuse write) :=
  .kept (by rw [State.refuse_eq]; rfl)

theorem HostEffect.stateMove {td : BitVec 11} {v : Word} {rest : List Turn} {t : State}
    (h : HostEffect (s.setTurns rest) td v t) (ht : s.turns = .host td v :: rest) : StateMove s t := by
  cases h with
  | refused write => exact .refuse rest write
  | parse htd hv hb => subst htd hv; exact .parse hb rest ht
  | clear htd hv => subst htd hv; exact .clear rfl rest ht
  | _ => exact .kept rfl

/-- The block's turn in a state of the invariant: S_CCM_WAIT waits, and each other state goes on. -/
theorem stateMove_block (h : Inv s) {j : Instr} (ts : List Turn) (hj : decode (.fsm4 s.state) = .ok j)
    (hb : s.busy = true) : OnNext (StateMove s) (exec j (s.setTurns ts)) := by
  by_cases hleft : stepsLeft s.state = 0
  · have hwait : s.state = FsmCode.ccmWait := by
      have hnone := h.status.busy.symm.trans hb
      rcases (stepsLeft_eq_zero h.status.legal).1 hleft with hidle | hdone | hwait
      · simp [hidle] at hnone
      · simp [hdone] at hnone
      · exact hwait
    rw [hwait] at hj
    obtain rfl : Instr.sCcmWait = j := Except.ok.inj hj
    have hstay : exec .sCcmWait (s.setTurns ts) = .next (s.setTurns ts) := execSCcmWait_waits h.status.ccmDone
    rw [hstay]
    exact .next (.kept rfl)
  · exact (leavesFewer_fsm (s := s.setTurns ts) hj hleft).mono fun _ hlt => .onward hb (ne_fc_of_stepsLeft_lt hlt)

/-- The engine's answer ends the parse in S_CCM_WAIT, and elsewhere it changes nothing (44_segment_nonce.md R177). -/
theorem stateMove_answerCcm (h : Inv s) {u : State} (hu : u.state = s.state) (ok : Bool) :
    StateMove s (u.answerCcm ok) := by
  by_cases hwait : u.state = FsmCode.ccmWait
  · rw [State.answerCcm_taken ok hwait]
    exact .onward (by rw [h.status.busy, ← hu, hwait]; rfl) nofun
  · rw [State.answerCcm_ignored ok hwait]
    exact .kept hu

theorem stateMove_engine (h : Inv s) (ok : Bool) (ts : List Turn) :
    OnNext (StateMove s) (execSCcmWait ((s.setTurns ts).setCcmDone (some ok))) := by
  rw [execSCcmWait_answered (s := (s.setTurns ts).setCcmDone (some ok)) rfl]
  exact .next (stateMove_answerCcm (u := ((s.setTurns ts).setCcmDone (some ok)).setCcmDone none) h rfl ok)

/-- Every turn, from every state of the invariant. -/
theorem stateMove_step (h : Inv s) : OnNext (StateMove s) (step s) :=
  .step
    (hhost := fun td v _ ht => (hostEffect_host _ td v).mono fun _ heffect => heffect.stateMove ht)
    (hwidth := fun _ _ => .refuse _ _)
    (hblock := fun _ ts hj hb => stateMove_block h ts hj hb)
    (hrest := fun _ => .kept rfl)
    (hengine := fun ok _ => stateMove_engine h ok _)
    (hreset := fun rest ht => .reset rfl rest ht)

/-- Settles O55: of the ways a turn can change STATE only PARSE, CLEAR and reset can happen with BUSY = 0, and only PARSE
leads to S_FC. -/
theorem onlyParseStartsAParse : Obligations.OnlyParseStartsAParse := by
  intro s t h hstep
  cases stateMove_step h t hstep with
  | kept hkept => exact ⟨fun _ hne => absurd hkept hne, fun hfc hne => absurd (hkept.symm.trans hfc) hne⟩
  | onward hb hfc => exact ⟨fun hrest => absurd (hb.symm.trans hrest) nofun, fun h => absurd h hfc⟩
  | parse hb rest ht => exact ⟨fun _ _ => .inl ⟨_, rest, ht, .inl rfl⟩, fun _ _ => ⟨hb, rest, ht⟩⟩
  | clear hidle rest ht =>
    exact ⟨fun _ _ => .inl ⟨_, rest, ht, .inr rfl⟩, fun hfc => absurd (hidle.symm.trans hfc) nofun⟩
  | reset hidle rest ht => exact ⟨fun _ _ => .inr ⟨rest, ht⟩, fun hfc => absurd (hidle.symm.trans hfc) nofun⟩

end Sys2Proof.Machine
end

section
/-! The commands: what a write to CMD does by its value (40_host_commands.md R93 to R96). -/

namespace Sys2Proof.Machine

variable {s : State}

/-- A write to CMD runs the command its value is decoded to (30_encoding.md R70, R82). -/
theorem exec_wrCmd (v : Word) (s : State) : exec (.wrCmd v) s = exec (decodeCmd v) s := by
  change execWrCmd v s = exec (decodeCmd v) s
  unfold execWrCmd decodeCmd
  cases classifyCmd v <;> rfl

/-- The whole value is compared: one that is no command's code is undefined (40_host_commands.md R96). -/
theorem decodeCmd_undefined {v : Word} (hnop : v ≠ 0#32) (hparse : v ≠ 1#32) (hclear : v ≠ 2#32) :
    decodeCmd v = .cmdUndefined v := by
  simp only [decodeCmd, classifyCmd, if_neg hnop, if_neg hparse, if_neg hclear]

/-- Settles O18: the value 0 is decoded to NOP, which answers the state it is given. -/
theorem nopHasNoEffect : Obligations.NopHasNoEffect :=
  fun s => ⟨rfl, exec_wrCmd 0#32 s⟩

/-- Settles O19: PARSE by BUSY, and the value 1 is decoded to it. -/
theorem parseStartsAParseOrIsIgnored : Obligations.ParseStartsAParseOrIsIgnored :=
  fun s => ⟨fun hfree => execParse_resting hfree, fun hbusy => execParse_busy hbusy, exec_wrCmd 1#32 s⟩

/-- Settles O20: CLEAR is `clearAll` in every state, and the value 2 is decoded to it. -/
theorem clearAbortsAndClears : Obligations.ClearAbortsAndClears :=
  fun s => ⟨rfl, exec_wrCmd 2#32 s⟩

/-- Settles O21: every other value is decoded to the undefined command, which flags BAD_CMD. -/
theorem undefinedCommandsSetBadCmdOnly : Obligations.UndefinedCommandsSetBadCmdOnly := by
  intro s c hnop hparse hclear
  have hflag : exec (.cmdUndefined c) s = .next s.flagBadCmd := rfl
  exact ⟨hflag, by rw [exec_wrCmd, decodeCmd_undefined hnop hparse hclear]; exact hflag⟩

end Sys2Proof.Machine
end

section
/-! The bytes of FRAME_BUF after a host write (40_host_commands.md R91). -/

namespace Sys2Proof.Machine

/-- After a byte is stored, its address reads as that byte and every other address reads as before. -/
theorem State.frameByte_writeByte (s : State) (a : Nat) (x : Byte) (b : Nat) :
    (s.writeByte a x).frameByte b = if b = a then x else s.frameByte b := by
  split
  · next h => rw [h, State.frameByte_writeByte_same]
  · next h => exact State.frameByte_writeByte_other s x h

/-- Byte k of a stored word stands at offset k (20_memory.md R44). -/
theorem State.frameByte_writeWord_inside (s : State) (a : Nat) (v : Word) {k : Nat} (hk : k < 4) :
    (s.writeWord a v).frameByte (a + k) = wordByte v k := by
  obtain rfl | rfl | rfl | rfl : k = 0 ∨ k = 1 ∨ k = 2 ∨ k = 3 := by omega
  all_goals simp [State.writeWord, State.frameByte_writeByte]

/-- A stored word leaves the bytes outside its four as they were. -/
theorem State.frameByte_writeWord_outside (s : State) {a b : Nat} (v : Word) (h : b < a ∨ a + 4 ≤ b) :
    (s.writeWord a v).frameByte b = s.frameByte b := by
  have hne : ∀ k, k < 4 → b ≠ a + k := by omega
  calc (s.writeWord a v).frameByte b
      = (((s.writeByte a _).writeByte (a + 1) _).writeByte (a + 2) _).frameByte b :=
        State.frameByte_writeByte_other _ _ (hne 3 (by decide))
    _ = ((s.writeByte a _).writeByte (a + 1) _).frameByte b := State.frameByte_writeByte_other _ _ (hne 2 (by decide))
    _ = (s.writeByte a _).frameByte b := State.frameByte_writeByte_other _ _ (hne 1 (by decide))
    _ = s.frameByte b := State.frameByte_writeByte_other _ _ (hne 0 (by decide))

/-- A stored word changes FRAME_BUF and nothing else (20_memory.md R50). -/
theorem State.writeWord_eq (s : State) (a : Nat) (v : Word) :
    s.writeWord a v = { s with frameBuf := (s.writeWord a v).frameBuf } := rfl

end Sys2Proof.Machine
end

section
/-! The host's 8-bit accesses and its writes: refused, dropped while a parse runs, or taken (40_host_commands.md R90 to
R92, 20_memory.md R47, R54). -/

namespace Sys2Proof.Machine

variable {s : State} {off : BitVec 9}

/-- An offset of 8 bits lies in FRAME_BUF, where every byte access goes through (20_memory.md R46). -/
theorem not_refusedAccess_byte (a : BitVec 8) : ¬ refusedAccess a.toNat .byte = true :=
  fun h => absurd a.isLt (Nat.not_lt.2 (of_decide_eq_true h))

/-- A 32-bit access at an aligned offset goes through (20_memory.md R46). -/
theorem not_refusedAccess_word {a : Nat} (h : a % 4 = 0) : ¬ refusedAccess a .word = true :=
  fun hrefused => (refusedAccess_word a).1 hrefused h

/-- Settles O24: the access is not refused, so the byte is returned. -/
theorem rd8ReturnsTheByte : Obligations.Rd8ReturnsTheByte :=
  fun _ a => if_neg (not_refusedAccess_byte a)

/-- A write of the frame or the configuration that is not refused is dropped while BUSY = 1 and taken while BUSY = 0
(40_host_commands.md R91, R92). -/
theorem guardedWrite_cases (s t : State) :
    let answer : Answer := if s.busy then .next s.flagWrWhileBusy else .next t
    (s.busy = true → answer = .next { s with wrWhileBusy := true }) ∧ (s.busy = false → answer = .next t) :=
  ⟨fun hb => if_pos hb, fun hb => if_neg (ne_true_of_eq_false hb)⟩

theorem exec_wr8 (s : State) (a : BitVec 8) (v : Word) :
    exec (.wr8 a v) s = if s.busy then .next s.flagWrWhileBusy else .next (s.writeByte a.toNat (wordByte v 0)) :=
  if_neg (not_refusedAccess_byte a)

/-- Settles O29: the new memory is that of `writeByte`, whose bytes are given by `frameByte_writeByte`. -/
theorem wr8StoresOneByteOrIsDropped : Obligations.Wr8StoresOneByteOrIsDropped := by
  intro s a v
  obtain ⟨hdropped, htaken⟩ := guardedWrite_cases s (s.writeByte a.toNat (wordByte v 0))
  rw [exec_wr8]
  exact ⟨hdropped, fun hb => ⟨_, htaken hb, s.frameByte_writeByte a.toNat (wordByte v 0)⟩⟩

theorem exec_wr32Buf_misaligned (s : State) {a : BitVec 8} (v : Word) (h : a.toNat % 4 ≠ 0) :
    exec (.wr32Buf a v) s = .next { s with busErr := true } := if_pos ((refusedAccess_word a.toNat).2 h)

theorem exec_wr32Buf_aligned (s : State) {a : BitVec 8} (v : Word) (h : a.toNat % 4 = 0) :
    exec (.wr32Buf a v) s = if s.busy then .next s.flagWrWhileBusy else .next (s.writeWord a.toNat v) :=
  if_neg (not_refusedAccess_word h)

/-- Settles O30: the new memory is that of `writeWord`, whose bytes are given inside and outside the word. -/
theorem wr32BufStoresFourBytesOrIsDropped : Obligations.Wr32BufStoresFourBytesOrIsDropped := by
  intro s a v
  obtain ⟨hdropped, htaken⟩ := guardedWrite_cases s (s.writeWord a.toNat v)
  refine ⟨exec_wr32Buf_misaligned s v, fun haligned hb => ?_, fun haligned hb =>
    ⟨(s.writeWord a.toNat v).frameBuf, ?_, fun _ => ?_, fun _ => ?_⟩⟩
  · rw [exec_wr32Buf_aligned s v haligned, hdropped hb]
  · rw [exec_wr32Buf_aligned s v haligned, htaken hb, ← State.writeWord_eq]
  · rw [← State.writeWord_eq]; exact s.frameByte_writeWord_inside a.toNat v
  · rw [← State.writeWord_eq]; exact s.frameByte_writeWord_outside v

/-! ## Register writes, one equation per register (20_memory.md R45) -/

theorem exec_wr32Reg_misaligned (s : State) (v : Word) (h : off.toNat % 4 ≠ 0) :
    exec (.wr32Reg off v) s = .next { s with busErr := true } := if_pos ((refusedAccess_word off.toNat).2 h)

theorem exec_wr32Reg_frameLen (s : State) (v : Word) :
    exec (.wr32Reg 0x100#9 v) s =
      if s.busy then .next s.flagWrWhileBusy else .next (s.setFrameLen (v.extractLsb' 0 8)) := rfl

theorem exec_wr32Reg_cfgPan (s : State) (v : Word) :
    exec (.wr32Reg 0x104#9 v) s =
      if s.busy then .next s.flagWrWhileBusy else .next (s.setCfgPan (v.extractLsb' 0 16)) := rfl

theorem exec_wr32Reg_ctrl (s : State) (v : Word) :
    exec (.wr32Reg 0x108#9 v) s = .next (s.setIrqEn (v.getLsbD 0)) := rfl

/-- A register the host cannot write, and a reserved offset, ignore a write (20_memory.md R45, 10_state.md R36). -/
theorem exec_wr32Reg_ignored (s : State) (v : Word) (haligned : off.toNat % 4 = 0) (hlen : off ≠ 0x100#9)
    (hpan : off ≠ 0x104#9) (hctrl : off ≠ 0x108#9) : exec (.wr32Reg off v) s = .next s := by
  change execWr32Reg off v s = .next s
  rw [execWr32Reg, if_neg (not_refusedAccess_word haligned), if_neg hlen, if_neg hpan, if_neg hctrl]

/-- Settles O31: by the register at the offset, and for FRAME_LEN and CFG_PAN by BUSY. -/
theorem wr32RegWritesTheWritableFields : Obligations.Wr32RegWritesTheWritableFields := by
  intro s off v
  obtain ⟨hlenDropped, hlenTaken⟩ := guardedWrite_cases s (s.setFrameLen (v.extractLsb' 0 8))
  obtain ⟨hpanDropped, hpanTaken⟩ := guardedWrite_cases s (s.setCfgPan (v.extractLsb' 0 16))
  refine ⟨exec_wr32Reg_misaligned s v, ?_, ?_, ?_, ?_, exec_wr32Reg_ignored s v⟩
  · rintro rfl hb
    exact (exec_wr32Reg_frameLen s v).trans (hlenTaken hb)
  · rintro rfl hb
    exact (exec_wr32Reg_cfgPan s v).trans (hpanTaken hb)
  · rintro (rfl | rfl) hb
    · exact (exec_wr32Reg_frameLen s v).trans (hlenDropped hb)
    · exact (exec_wr32Reg_cfgPan s v).trans (hpanDropped hb)
  · rintro rfl
    exact exec_wr32Reg_ctrl s v

end Sys2Proof.Machine
end

section
/-! Frame control: S_FC and S_ACK by the length of the frame, and what the rows of S_FC leave behind
(41_frame_control.md). -/

namespace Sys2Proof.Machine

variable {s : State}

/-! ## S_FC (41_frame_control.md R110) -/

theorem exec_sFc_short (h : s.frameLen.toNat < 2) : exec .sFc s = .next (s.finish .structuralError Reason.tooShortFc) :=
  if_pos h

/-- The field lies in the frame, so its word is read and the row the word belongs to is run. -/
theorem exec_sFc_enough (h : 2 ≤ s.frameLen.toNat) :
    exec .sFc s = runFrameControl (s.frameByte 1 ++ s.frameByte 0) s :=
  calc exec .sFc s
      = fsmRead s 0 2 fun w => runFrameControl (BitVec.ofNat 16 w) s := if_neg (Nat.not_lt.2 h)
    _ = runFrameControl (BitVec.ofNat 16 (s.readLe 0 2)) s := fsmRead_inside _ h
    _ = runFrameControl (s.frameByte 1 ++ s.frameByte 0) s := by rw [State.readLe_two]

/-- Settles O33: the row of the word is the one it is decoded to, and no row stops. -/
theorem sFcChecksTheLengthThenRunsItsRow : Obligations.SFcChecksTheLengthThenRunsItsRow := by
  refine fun s => ⟨exec_sFc_short, fun hlen => ?_⟩
  obtain ⟨t, ht⟩ := runFrameControl_next (s.frameByte 1 ++ s.frameByte 0) s
  have hrun := exec_sFc_enough hlen
  exact ⟨_, t, rfl, hrun.trans (runFrameControl_eq _ s), hrun.trans ht⟩

/-! ## The rows of S_FC (41_frame_control.md R111 to R119) -/

/-- A rejection captures the word, then the parse ends at the offset after it (41_frame_control.md R111). -/
theorem rejectFc_eq (reason : BitVec 8) (fc : BitVec 16) (s : State) :
    rejectFc reason fc s =
      .next { s with
        off := 2#8, state := FsmCode.done, busy := false, done := true
        res := { s.res with
          fcRaw := fc, fcValid := true, outcome := .structuralError, reason := reason, endOff := 2#8 } } := rfl

/-- Settles O34: each rejecting row is `rejectFc` with the reason of its check. -/
theorem rejectedWordsAreCapturedAndDropped : Obligations.RejectedWordsAreCapturedAndDropped :=
  fun s fc =>
    ⟨rejectFc_eq _ fc s, rejectFc_eq _ fc s, rejectFc_eq _ fc s, rejectFc_eq _ fc s, rejectFc_eq _ fc s,
      rejectFc_eq _ fc s, rejectFc_eq _ fc s, rejectFc_eq _ fc s⟩

/-- A word of the row of a frame type has that type (30_encoding.md R64). -/
theorem fcFT_of_row_wellFormed {ft : BitVec 3} {fc : BitVec 16} (h : ((ftClass ft).row fc).wellFormed = true) :
    fcFT fc = ft := by
  rw [ftClass_row_wellFormed, Bool.and_eq_true] at h
  obtain ⟨-, htype⟩ := h
  exact (fcHas_FT fc ft).1 htype

/-- A word of a type that is not decoded is captured, and the parse ends with the type as its reason
(41_frame_control.md R119). -/
theorem notDecoded_of_row_wellFormed {ft : BitVec 3} {fc : BitVec 16} (s : State)
    (h : ((ftClass ft).row fc).wellFormed = true) :
    notDecoded fc s = .next ((s.captureFc fc).finish .notDecoded (ft.setWidth 8)) := by
  rw [notDecoded, fcFT_of_row_wellFormed h]

/-- Settles O35: the two types with a state of their own go there, the rows of the six others are `notDecoded`. -/
theorem frameTypesAreDispatched : Obligations.FrameTypesAreDispatched :=
  fun s _ =>
    ⟨rfl, rfl,
      notDecoded_of_row_wellFormed (ft := 0#3) s, notDecoded_of_row_wellFormed (ft := 3#3) s,
      notDecoded_of_row_wellFormed (ft := 4#3) s, notDecoded_of_row_wellFormed (ft := 5#3) s,
      notDecoded_of_row_wellFormed (ft := 6#3) s, notDecoded_of_row_wellFormed (ft := 7#3) s⟩

/-! ## S_ACK (41_frame_control.md R120) -/

theorem exec_sAck_short (h : s.frameLen.toNat < 3) : exec .sAck s = .next (s.finish .okAck Reason.none) :=
  if_neg (Nat.not_le.2 h)

/-- The sequence number lies in the frame, so it is read before the parse ends. -/
theorem exec_sAck_enough (h : 3 ≤ s.frameLen.toNat) :
    exec .sAck s = .next ((s.takeSeq (s.frameByte 2).toNat).finish .okAck Reason.none) :=
  calc exec .sAck s
      = fsmRead s 2 1 fun b => .next ((s.takeSeq b).finish .okAck Reason.none) := if_pos h
    _ = .next ((s.takeSeq (s.readLe 2 1)).finish .okAck Reason.none) := fsmRead_inside _ h
    _ = .next ((s.takeSeq (s.frameByte 2).toNat).finish .okAck Reason.none) := by rw [State.readLe_one]

/-- What is read as the sequence number is the byte itself (41_frame_control.md R120). -/
theorem State.takeSeq_byte (s : State) (b : Byte) :
    s.takeSeq b.toNat = { s with off := 3#8, res := { s.res with seq := b, seqValid := true } } := by
  rw [State.takeSeq, BitVec.ofNat_toNat, BitVec.setWidth_eq]
  rfl

/-- Settles O36: by the length of the frame. -/
theorem sAckReadsSeqAndEnds : Obligations.SAckReadsSeqAndEnds := by
  refine fun s => ⟨fun hlen => ?_, exec_sAck_short⟩
  rw [exec_sAck_enough hlen, State.takeSeq_byte]
  rfl

end Sys2Proof.Machine
end

section
/-! The addressing states one by one: what S_SEQ, S_DST, S_SRCPAN, S_SRC and S_BOUND answer by the length of the frame
(42_addressing.md R130 to R143). -/

namespace Sys2Proof.Machine

variable {s : State}

/-! ## S_SEQ (42_addressing.md R130) -/

theorem exec_sSeq_short (h : s.frameLen.toNat < s.off.toNat + 1) :
    exec .sSeq s = .next (s.finish .structuralError Reason.truncSeq) := need_short _ _ h

/-- The sequence number lies in the frame, so it is read on the way to S_DST. -/
theorem exec_sSeq_enough (hneed : s.off.toNat + 1 ≤ s.frameLen.toNat) (hread : 3 ≤ s.frameLen.toNat) :
    exec .sSeq s = .next ((s.takeSeq (s.frameByte 2).toNat).goto FsmCode.dst) :=
  calc exec .sSeq s
      = fsmRead s 2 1 fun b => .next ((s.takeSeq b).goto FsmCode.dst) := need_enough _ _ hneed
    _ = .next ((s.takeSeq (s.readLe 2 1)).goto FsmCode.dst) := fsmRead_inside _ hread
    _ = .next ((s.takeSeq (s.frameByte 2).toNat).goto FsmCode.dst) := by rw [State.readLe_one]

/-- Settles O37: by the length of the frame, with OFF = 2. -/
theorem sSeqReadsTheSequenceNumber : Obligations.SSeqReadsTheSequenceNumber := by
  intro s hoff
  have htwo : s.off.toNat = 2 := congrArg BitVec.toNat hoff
  refine ⟨fun hlen => exec_sSeq_short (by rwa [htwo]), fun hlen => ?_⟩
  rw [exec_sSeq_enough (by rwa [htwo]) hlen, State.takeSeq_byte]
  rfl

/-! ## What the field reads leave behind, with OFF as a number (20_memory.md R49) -/

/-- OFF after a field of `n` bytes. -/
theorem State.off_add (s : State) (n : Nat) : s.off + BitVec.ofNat 8 n = BitVec.ofNat 8 (s.off.toNat + n) := by
  rw [BitVec.ofNat_add, BitVec.ofNat_toNat, BitVec.setWidth_eq]

theorem State.takeDstPan_eq (s : State) (p : Nat) :
    s.takeDstPan p =
      { s with
        off := BitVec.ofNat 8 (s.off.toNat + 2)
        res := { s.res with panId := BitVec.ofNat 16 p, panValid := true } } := by
  rw [← State.off_add]
  rfl

theorem State.takeSrcPan_eq (s : State) (p : Nat) :
    s.takeSrcPan p =
      { s with off := BitVec.ofNat 8 (s.off.toNat + 2), res := { s.res with panId := BitVec.ofNat 16 p } } := by
  rw [← State.off_add]
  rfl

/-- The source address and HDR_LEN at the offset after it (42_addressing.md R137, R141). -/
theorem State.takeSrcAddr_takeHdrLen_eq (s : State) (kind : AddrKind) (v n : Nat) :
    (s.takeSrcAddr kind v n).takeHdrLen =
      { s with
        off := BitVec.ofNat 8 (s.off.toNat + n)
        res := { s.res with
          srcKind := kind, srcAddr := BitVec.ofNat 64 v, hdrLen := BitVec.ofNat 8 (s.off.toNat + n),
          hdrValid := true } } := by
  rw [← State.off_add]
  rfl

/-- A two-byte address is its 16-bit value with zeros above (10_state.md R23). -/
theorem State.readLe_two_setWidth (s : State) (a : Nat) :
    BitVec.ofNat 64 (s.readLe a 2) = (BitVec.ofNat 16 (s.readLe a 2)).setWidth 64 := by
  have hlt := s.readLe_lt a 2
  apply BitVec.eq_of_toNat_eq
  simp only [BitVec.toNat_ofNat, BitVec.toNat_setWidth]
  omega

/-- A two-byte field is all ones exactly when the number read is (42_addressing.md R134). -/
theorem State.readLe_two_eq_ones_iff (s : State) (a : Nat) :
    BitVec.ofNat 16 (s.readLe a 2) = 0xFFFF#16 ↔ s.readLe a 2 = 0xFFFF := by
  have hlt : s.readLe a 2 < 2 ^ 16 := s.readLe_lt a 2
  rw [← BitVec.toNat_inj, BitVec.toNat_ofNat, Nat.mod_eq_of_lt hlt]
  rfl

/-! ## S_DST (42_addressing.md R131 to R134) -/

/-- The PAN and an address of `n` bytes taken from OFF on (42_addressing.md R132, R133). -/
def State.takeDst (s : State) (kind : AddrKind) (n : Nat) : State :=
  (s.takeDstPan (s.readLe s.off.toNat 2)).takeDstAddr kind (s.readLe (s.off.toNat + 2) n) n

theorem State.takeDst_eq (s : State) (kind : AddrKind) (n : Nat) :
    s.takeDst kind n =
      { s with
        off := BitVec.ofNat 8 (s.off.toNat + (2 + n))
        res := { s.res with
          panId := BitVec.ofNat 16 (s.readLe s.off.toNat 2), panValid := true
          dstKind := kind, dstAddr := BitVec.ofNat 64 (s.readLe (s.off.toNat + 2) n) } } := by
  rw [← State.off_add, BitVec.ofNat_add, ← BitVec.add_assoc]
  rfl

/-- After the PAN, the address is read behind it or found truncated (42_addressing.md R133). -/
theorem readDst_eq {kind : AddrKind} {n : Nat} {k : State → Answer} (hpan : s.off.toNat + 2 ≤ s.frameLen.toNat) :
    readDstPan s (fun u => readDstAddr u kind n k) =
      if s.frameLen.toNat < s.off.toNat + 2 + n then
        .next ((s.takeDstPan (s.readLe s.off.toNat 2)).finish .structuralError Reason.truncDstAddr)
      else k (s.takeDst kind n) := by
  have hoff : (s.takeDstPan (s.readLe s.off.toNat 2)).off.toNat = s.off.toNat + 2 := State.advance_off_toNat hpan
  have hread (a : Nat) : (s.takeDstPan (s.readLe s.off.toNat 2)).readLe a n = s.readLe a n :=
    State.readLe_congr (State.takeDstPan_frameBuf _ _) (State.takeDstPan_epoch _ _) a n
  rw [readDstPan_eq, if_neg (Nat.not_lt.2 hpan), readDstAddr_eq, hoff, hread]
  rfl

theorem readDst_truncated {kind : AddrKind} {n : Nat} {k : State → Answer} (hpan : s.off.toNat + 2 ≤ s.frameLen.toNat)
    (haddr : s.frameLen.toNat < s.off.toNat + 2 + n) :
    readDstPan s (fun u => readDstAddr u kind n k) =
      .next ((s.takeDstPan (s.readLe s.off.toNat 2)).finish .structuralError Reason.truncDstAddr) := by
  rw [readDst_eq hpan, if_pos haddr]

theorem readDst_enough {kind : AddrKind} {n : Nat} {k : State → Answer}
    (h : s.off.toNat + 2 + n ≤ s.frameLen.toNat) :
    readDstPan s (fun u => readDstAddr u kind n k) = k (s.takeDst kind n) := by
  rw [readDst_eq (Nat.le_trans (Nat.le_add_right _ n) h), if_neg (Nat.not_lt.2 h)]

/-- The broadcast test is on the PAN and the 16-bit address (42_addressing.md R134). -/
theorem takeDst_broadcast_iff :
    ((s.takeDst .short 2).res.panId = Config.bcastPan ∧
      (s.takeDst .short 2).res.dstAddr = Config.bcastShort.setWidth 64) ↔
    BitVec.ofNat 16 (s.readLe s.off.toNat 2) = 0xFFFF#16 ∧
      BitVec.ofNat 16 (s.readLe (s.off.toNat + 2) 2) = 0xFFFF#16 := by
  have haddr : (s.takeDst .short 2).res.dstAddr = (BitVec.ofNat 16 (s.readLe (s.off.toNat + 2) 2)).setWidth 64 :=
    s.readLe_two_setWidth _
  rw [haddr]
  exact and_congr_right fun _ => ⟨fun h => by simpa using congrArg (BitVec.setWidth 16) h, fun h => by rw [h]⟩

/-- Settles O39: None takes no byte; Short and Long by the length of the frame, and Short by the broadcast test. -/
theorem destinationFieldsAreReadByMode : Obligations.DestinationFieldsAreReadByMode := by
  intro s fc o l pan a afterPan
  have hafter : s.takeDstPan (s.readLe o 2) = afterPan := s.takeDstPan_eq _
  refine ⟨rfl, fun hlen => ⟨need_short _ _ hlen, need_short _ _ hlen⟩, fun hpan haddr => ?_, fun hpan haddr => ?_,
    fun hlen hones => ?_, fun hlen hother => ?_, fun hlen => ?_⟩
  · rw [← hafter]
    exact readDst_truncated hpan haddr
  · rw [← hafter]
    exact readDst_truncated hpan haddr
  · refine (readDst_enough hlen).trans ?_
    rw [if_pos (takeDst_broadcast_iff.2 hones), State.takeDst_eq]
    rfl
  · refine (readDst_enough hlen).trans ?_
    rw [if_neg (mt takeDst_broadcast_iff.1 hother), State.takeDst_eq, State.readLe_two_setWidth]
    rfl
  · refine (readDst_enough hlen).trans ?_
    rw [State.takeDst_eq]
    rfl

/-! ## S_SRCPAN (42_addressing.md R135) -/

/-- Settles O40: by the length of the frame. -/
theorem sSrcPanReplacesThePan : Obligations.SSrcPanReplacesThePan := by
  intro s
  have hexec : exec .sSrcPan s =
      if s.frameLen.toNat < s.off.toNat + 2 then .next (s.finish .structuralError Reason.truncSrcPan)
      else .next ((s.takeSrcPan (s.readLe s.off.toNat 2)).goto FsmCode.src) := need_then_read s 2 _ _
  refine ⟨fun hshort => hexec.trans (if_pos hshort), fun henough => ?_⟩
  rw [hexec, if_neg (Nat.not_lt.2 henough), State.takeSrcPan_eq]
  rfl

/-! ## S_SRC (42_addressing.md R137 to R141) -/

theorem readSrcAddr_short {kind : AddrKind} {n : Nat} (h : s.frameLen.toNat < s.off.toNat + n) :
    readSrcAddr s kind n = .next (s.finish .structuralError Reason.truncSrcAddr) := need_short _ _ h

theorem readSrcAddr_enough {kind : AddrKind} {n : Nat} (h : s.off.toNat + n ≤ s.frameLen.toNat) :
    readSrcAddr s kind n =
      .next { s with
        off := BitVec.ofNat 8 (s.off.toNat + n), state := FsmCode.bound
        res := { s.res with
          srcKind := kind, srcAddr := BitVec.ofNat 64 (s.readLe s.off.toNat n)
          hdrLen := BitVec.ofNat 8 (s.off.toNat + n), hdrValid := true } } := by
  rw [readSrcAddr_eq, if_neg (Nat.not_lt.2 h), State.takeSrcAddr_takeHdrLen_eq]
  rfl

/-- Settles O41: None takes no byte; Short and Long by the length of the frame. -/
theorem sourceFieldsAreReadByMode : Obligations.SourceFieldsAreReadByMode := by
  refine fun s fc => ⟨rfl, readSrcAddr_short, readSrcAddr_short, fun hlen => ?_, readSrcAddr_enough⟩
  rw [← State.readLe_two_setWidth]
  exact readSrcAddr_enough hlen

/-! ## S_BOUND (42_addressing.md R142, R143) -/

/-- Settles O42: by the length of the frame; the payload's length is a byte because FRAME_LEN is. -/
theorem sBoundSetsThePayloadRegion : Obligations.SBoundSetsThePayloadRegion := by
  refine fun s => ⟨fun hshort => need_short _ _ hshort, fun henough =>
    ⟨BitVec.ofNat 8 (s.frameLen.toNat - 2 - s.off.toNat), ?_, need_enough _ _ henough⟩⟩
  have hframe := s.frameLen.isLt
  rw [BitVec.toNat_ofNat]
  omega

end Sys2Proof.Machine
end

section
/-! S_DST and S_SRC run the row of their mode, and answer a next state but for the reserved mode (42_addressing.md R131,
R137, log entry 8). -/

namespace Sys2Proof.Machine

/-- The answer is a next state: neither a fault nor a refusal. -/
def AnswersNext (a : Answer) : Prop := ∃ t, a = .next t

variable {s : State}

theorem AnswersNext.next (t : State) : AnswersNext (.next t) := ⟨t, rfl⟩

theorem AnswersNext.ite {c : Prop} [Decidable c] {a b : Answer} (ha : AnswersNext a) (hb : AnswersNext b) :
    AnswersNext (if c then a else b) := by
  split
  · exact ha
  · exact hb

/-- A field at OFF: `need` has checked that the read stays in the frame, so it raises no fault (20_memory.md R48). -/
theorem AnswersNext.need_read {n : Nat} {code : BitVec 8} {k : Nat → Answer} (hk : ∀ v, AnswersNext (k v)) :
    AnswersNext (need s n code (fsmRead s s.off.toNat n k)) := by
  rw [need_then_read]
  exact .ite (.next _) (hk _)

/-- What a state that reads an addressing mode answers, with the row the captured word is decoded to. -/
inductive RunsRowOfMode (s : State) (mode : BitVec 2) (row : Except DecodeError Instr) (a : Answer) : Prop where
  /-- mode 1: no row, and the refusal by name (log entry 8) -/
  | reserved (hmode : classifyMode mode = none) (hrow : row = .error .reservedMode)
      (hrefused : a = .refused .reservedAddressingMode)
  /-- modes 0, 2 and 3 -/
  | legal {kind : AddrKind} {i : Instr} (hmode : classifyMode mode = some kind) (hrow : row = .ok i) (hrun : a = exec i s)
      (hnext : AnswersNext a)

variable {mode : BitVec 2} {row : Except DecodeError Instr} {a : Answer} {i : Instr}

theorem RunsRowOfMode.run (h : RunsRowOfMode s mode row a) (hi : row = .ok i) : ∃ t, a = exec i s ∧ a = .next t := by
  cases h with
  | reserved _ hrow _ => exact absurd (hrow.symm.trans hi) nofun
  | legal _ hrow hrun hnext =>
    obtain ⟨t, ht⟩ := hnext
    obtain rfl := Except.ok.inj (hrow.symm.trans hi)
    exact ⟨t, hrun, ht⟩

theorem RunsRowOfMode.refused_iff (h : RunsRowOfMode s mode row a) :
    mode = 1#2 ↔ a = .refused .reservedAddressingMode := by
  rw [← classifyMode_eq_none_iff]
  cases h with
  | reserved hmode _ hrefused => exact iff_of_true hmode hrefused
  | legal hmode _ _ hnext =>
    obtain ⟨t, ht⟩ := hnext
    exact iff_of_false (by rw [hmode]; exact nofun) (by rw [ht]; exact nofun)

/-- S_DST by the mode of the captured word (42_addressing.md R131). -/
theorem sDst_runsRowOfMode (s : State) :
    RunsRowOfMode s (fcDAM s.res.fcRaw) (decode (.dst16 s.res.fcRaw)) (exec .sDst s) := by
  rcases hmode : classifyMode (fcDAM s.res.fcRaw) with _ | _ | _ | _
  · exact .reserved hmode (by simp only [decode, decodeDst, hmode]) (execSDst_reserved hmode)
  · have hrun : exec .sDst s = exec (.damNone s.res.fcRaw) s := execSDst_none hmode
    exact .legal hmode (by simp only [decode, decodeDst, hmode]) hrun (hrun ▸ .next _)
  · have hrun : exec .sDst s = exec (.damShort s.res.fcRaw) s := execSDst_short hmode
    exact .legal hmode (by simp only [decode, decodeDst, hmode]) hrun
      (hrun ▸ .need_read fun _ => .need_read fun _ => .ite (.next _) (.next _))
  · have hrun : exec .sDst s = exec (.damLong s.res.fcRaw) s := execSDst_long hmode
    exact .legal hmode (by simp only [decode, decodeDst, hmode]) hrun
      (hrun ▸ .need_read fun _ => .need_read fun _ => .next _)

/-- S_SRC by the mode of the captured word (42_addressing.md R137). -/
theorem sSrc_runsRowOfMode (s : State) :
    RunsRowOfMode s (fcSAM s.res.fcRaw) (decode (.src16 s.res.fcRaw)) (exec .sSrc s) := by
  rcases hmode : classifyMode (fcSAM s.res.fcRaw) with _ | _ | _ | _
  · exact .reserved hmode (by simp only [decode, decodeSrc, hmode]) (execSSrc_reserved hmode)
  · have hrun : exec .sSrc s = exec (.samNone s.res.fcRaw) s := execSSrc_none hmode
    exact .legal hmode (by simp only [decode, decodeSrc, hmode]) hrun (hrun ▸ .next _)
  · have hrun : exec .sSrc s = exec (.samShort s.res.fcRaw) s := execSSrc_short hmode
    exact .legal hmode (by simp only [decode, decodeSrc, hmode]) hrun (hrun ▸ .need_read fun _ => .next _)
  · have hrun : exec .sSrc s = exec (.samLong s.res.fcRaw) s := execSSrc_long hmode
    exact .legal hmode (by simp only [decode, decodeSrc, hmode]) hrun (hrun ▸ .need_read fun _ => .next _)

/-- Settles O38: by the mode of the captured word; only the reserved one has no row, and only it is refused. -/
theorem addressStatesRunTheRowOfTheirMode : Obligations.AddressStatesRunTheRowOfTheirMode :=
  fun s => ⟨fun _ => (sDst_runsRowOfMode s).run, fun _ => (sSrc_runsRowOfMode s).run, (sDst_runsRowOfMode s).refused_iff,
    (sSrc_runsRowOfMode s).refused_iff⟩

end Sys2Proof.Machine
end

section
/-! The header length by the block's own steps (42_addressing.md R145, R146, 30_encoding.md R67): in a frame that is long
enough each address state goes on to the next, and the invariant where the last one leads says what OFF is. -/

namespace Sys2Proof.Machine

/-! ## Runs of the block's own steps -/

/-- A run goes on from where it has come to. -/
theorem run_add (M : Host.Core) {s t : M.State} {j : Nat} (hj : M.run j s = .next t) (k : Nat) :
    M.run (j + k) s = M.run k t := by
  induction j generalizing s with
  | zero =>
    cases hj
    rw [Nat.zero_add]
  | succ j ih =>
    rw [Nat.succ_add]
    cases hstep : M.step s with
    | next u =>
      simp only [Host.Core.run, hstep] at hj ⊢
      exact ih hj
    | fault r => simp [Host.Core.run, hstep] at hj
    | refused r => simp [Host.Core.run, hstep] at hj

variable {s t u : State} {j k : Nat}

/-- After `k` steps of its own the block is at `t`: the invariant holds, the captured word and FRAME_LEN are what they were,
and no turn is listed. -/
structure HeaderRun (k : Nat) (s t : State) : Prop where
  run : Host.Core.run Sys2Proof.core k s = .next t
  inv : Inv t
  fcRaw : t.res.fcRaw = s.res.fcRaw
  frameLen : t.frameLen = s.frameLen
  turns : t.turns = []

theorem HeaderRun.trans (hst : HeaderRun j s t) (htu : HeaderRun k t u) : HeaderRun (j + k) s u where
  run := (run_add Sys2Proof.core hst.run k).trans htu.run
  inv := htu.inv
  fcRaw := htu.fcRaw.trans hst.fcRaw
  frameLen := htu.frameLen.trans hst.frameLen
  turns := htu.turns

/-- The step of a state of the parse, when no other turn is listed. -/
theorem HeaderRun.of_exec (h : Inv s) (ht : s.turns = []) {i : Instr} (hi : decode (.fsm4 s.state) = .ok i)
    (hb : s.busy = true) (hexec : exec i s = .next t) (hfc : t.res.fcRaw = s.res.fcRaw) (hlen : t.frameLen = s.frameLen)
    (hturns : t.turns = s.turns) : HeaderRun 1 s t := by
  have hstep : step s = .next t := (step_unlisted_busy hi ht hb).trans hexec
  have hcore : Sys2Proof.core.step s = .next t := hstep
  exact ⟨by simp only [Host.Core.run, hcore], keepsInv_step h t hstep, hfc, hlen, hturns.trans ht⟩

/-! ## The address states of a frame that is long enough -/

/-- S_SRC goes on to S_BOUND (42_addressing.md R137 to R141). -/
theorem headerRun_src (h : Inv s) (hs : s.state = FsmCode.src) (ht : s.turns = [])
    (hlen : headerLength s.res.fcRaw s.res.bcast ≤ s.frameLen.toNat) :
    ∃ t, HeaderRun 1 s t ∧ t.state = FsmCode.bound ∧ t.res.bcast = s.res.bcast := by
  have hi : decode (.fsm4 s.state) = .ok .sSrc := by rw [hs]; rfl
  have hb := (h.parsing hs).busy
  have hroom : s.off.toNat + srcBytes s.res.fcRaw ≤ s.frameLen.toNat := by rwa [h.progress.atSrc hs]
  obtain ⟨hnone, -, -, hshort, hlong⟩ := sourceFieldsAreReadByMode s s.res.fcRaw
  rcases hmode : classifyMode (fcSAM s.res.fcRaw) with _ | _ | _ | _
  · obtain ⟨-, -, hsam⟩ := h.progress.modes (by rw [hs]; rfl)
    exact absurd ((classifyMode_eq_none_iff _).1 hmode) hsam
  · exact ⟨_, .of_exec h ht hi hb ((execSSrc_none hmode).trans hnone) rfl rfl rfl, rfl, rfl⟩
  · rw [srcBytes_short hmode] at hroom
    exact ⟨_, .of_exec h ht hi hb ((execSSrc_short hmode).trans (hshort hroom)) rfl rfl rfl, rfl, rfl⟩
  · rw [srcBytes_long hmode] at hroom
    exact ⟨_, .of_exec h ht hi hb ((execSSrc_long hmode).trans (hlong hroom)) rfl rfl rfl, rfl, rfl⟩

/-- S_SRCPAN goes on to S_SRC (42_addressing.md R135). -/
theorem headerRun_srcPan (h : Inv s) (hs : s.state = FsmCode.srcPan) (ht : s.turns = []) (hlen : 9 ≤ s.frameLen.toNat) :
    ∃ t, HeaderRun 1 s t ∧ t.state = FsmCode.src ∧ t.res.bcast = s.res.bcast := by
  obtain ⟨hoff, -, -, -⟩ := h.progress.atSrcPan hs
  have hroom : s.off.toNat + 2 ≤ s.frameLen.toNat := by rwa [hoff]
  exact ⟨_, .of_exec h ht (by rw [hs]; rfl) (h.parsing hs).busy ((sSrcPanReplacesThePan s).2 hroom) rfl rfl rfl, rfl, rfl⟩

/-- The broadcast test on the frame in S_DST, where the destination fields begin at 3 (42_addressing.md R134). -/
def State.broadcast (s : State) : Bool :=
  decide (fcDAM s.res.fcRaw = 2#2 ∧ s.readLe 3 2 = 0xFFFF ∧ s.readLe 5 2 = 0xFFFF)

theorem broadcast_of_not_short {kind : AddrKind} (hmode : classifyMode (fcDAM s.res.fcRaw) = some kind)
    (hkind : kind ≠ .short) : s.broadcast = false := by
  refine decide_eq_false fun ⟨hdam, _⟩ => hkind ?_
  rw [hdam] at hmode
  exact (Option.some.inj hmode).symm

theorem broadcast_iff_of_short (hmode : classifyMode (fcDAM s.res.fcRaw) = some .short) :
    s.broadcast = true ↔ BitVec.ofNat 16 (s.readLe 3 2) = 0xFFFF#16 ∧ BitVec.ofNat 16 (s.readLe 5 2) = 0xFFFF#16 := by
  rw [State.readLe_two_eq_ones_iff, State.readLe_two_eq_ones_iff, State.broadcast, decide_eq_true_eq]
  exact and_iff_right (classifyMode_short hmode)

/-- S_DST goes on to S_SRCPAN in a broadcast and to S_SRC otherwise (42_addressing.md R131 to R134). -/
theorem headerRun_dst (h : Inv s) (hs : s.state = FsmCode.dst) (ht : s.turns = [])
    (hlen : 3 + dstBytes s.res.fcRaw ≤ s.frameLen.toNat) :
    ∃ t, HeaderRun 1 s t ∧ t.state = (if s.broadcast then FsmCode.srcPan else FsmCode.src) ∧
      t.res.bcast = s.broadcast := by
  have hi : decode (.fsm4 s.state) = .ok .sDst := by rw [hs]; rfl
  have hb := (h.parsing hs).busy
  obtain ⟨hnobc, -, -⟩ := h.progress.early (.inr hs)
  have hrows := destinationFieldsAreReadByMode s s.res.fcRaw
  simp only [h.progress.atDst hs, BitVec.reduceToNat, Nat.reduceAdd] at hrows
  obtain ⟨hnone, -, -, -, hbcast, hunicast, hlong⟩ := hrows
  rcases hmode : classifyMode (fcDAM s.res.fcRaw) with _ | _ | _ | _
  · obtain ⟨-, hdam, -⟩ := h.progress.modes (by rw [hs]; rfl)
    exact absurd ((classifyMode_eq_none_iff _).1 hmode) hdam
  · rw [broadcast_of_not_short hmode nofun]
    exact ⟨_, .of_exec h ht hi hb ((execSDst_none hmode).trans hnone) rfl rfl rfl, rfl, hnobc⟩
  · rw [dstBytes_short hmode] at hlen
    cases hbc : s.broadcast with
    | true =>
      have hones := (broadcast_iff_of_short hmode).1 hbc
      exact ⟨_, .of_exec h ht hi hb ((execSDst_short hmode).trans (hbcast hlen hones)) rfl rfl rfl, rfl, rfl⟩
    | false =>
      have hother := mt (broadcast_iff_of_short hmode).2 (ne_true_of_eq_false hbc)
      exact ⟨_, .of_exec h ht hi hb ((execSDst_short hmode).trans (hunicast hlen hother)) rfl rfl rfl, rfl, hnobc⟩
  · rw [dstBytes_long hmode] at hlen
    rw [broadcast_of_not_short hmode nofun]
    exact ⟨_, .of_exec h ht hi hb ((execSDst_long hmode).trans (hlong hlen)) rfl rfl rfl, rfl, hnobc⟩

/-- From S_DST the block comes to S_BOUND within three steps, through S_SRCPAN exactly in a broadcast. -/
theorem headerRun_dst_bound (h : Inv s) (hs : s.state = FsmCode.dst) (ht : s.turns = [])
    (hlen : headerLength s.res.fcRaw s.broadcast ≤ s.frameLen.toNat) :
    ∃ k t, k ≤ 3 ∧ HeaderRun k s t ∧ t.state = FsmCode.bound ∧ t.res.bcast = s.broadcast := by
  have hdst : 3 + dstBytes s.res.fcRaw + srcPanBytes s.broadcast ≤ s.frameLen.toNat :=
    Nat.le_trans (Nat.le_add_right _ _) hlen
  obtain ⟨t, hrun, hstate, hbcast⟩ := headerRun_dst h hs ht (Nat.le_trans (Nat.le_add_right _ _) hdst)
  cases hbc : s.broadcast with
  | false =>
    rw [hbc] at hstate hbcast hlen
    obtain ⟨u, hlast, hbound, hkept⟩ :=
      headerRun_src hrun.inv hstate hrun.turns (by rwa [hrun.fcRaw, hrun.frameLen, hbcast])
    exact ⟨2, u, by decide, hrun.trans hlast, hbound, hkept.trans hbcast⟩
  | true =>
    rw [hbc] at hstate hbcast hlen hdst
    have hmode : dstBytes s.res.fcRaw = 4 := dstBytes_short (by rw [(of_decide_eq_true hbc).1]; rfl)
    obtain ⟨v, hpan, hsrc, hsame⟩ :=
      headerRun_srcPan hrun.inv hstate hrun.turns (by rw [hrun.frameLen]; rwa [hmode] at hdst)
    have hfirst := hrun.trans hpan
    have hvbcast := hsame.trans hbcast
    obtain ⟨u, hlast, hbound, hkept⟩ :=
      headerRun_src hfirst.inv hsrc hfirst.turns (by rwa [hfirst.fcRaw, hfirst.frameLen, hvbcast])
    exact ⟨3, u, by decide, hfirst.trans hlast, hbound, hkept.trans hvbcast⟩

/-! ## The table of 30_encoding.md R67 -/

/-- Bytes of the destination fields of a kind (30_encoding.md R66). -/
def dstKindBytes : AddrKind → Nat
  | .none => 0
  | .short => 4
  | .long => 10

/-- Bytes of the source address of a kind (30_encoding.md R66). -/
def srcKindBytes : AddrKind → Nat
  | .none => 0
  | .short => 2
  | .long => 8

theorem dstBytes_of_kind {fc : BitVec 16} {kind : AddrKind} (h : fcDAM fc = addrKindCode kind) :
    dstBytes fc = dstKindBytes kind := by
  have hmode := (classifyMode_eq_some_iff _ _).2 h
  cases kind with
  | none => exact dstBytes_none hmode
  | short => exact dstBytes_short hmode
  | long => exact dstBytes_long hmode

theorem srcBytes_of_kind {fc : BitVec 16} {kind : AddrKind} (h : fcSAM fc = addrKindCode kind) :
    srcBytes fc = srcKindBytes kind := by
  have hmode := (classifyMode_eq_some_iff _ _).2 h
  cases kind with
  | none => exact srcBytes_none hmode
  | short => exact srcBytes_short hmode
  | long => exact srcBytes_long hmode

/-- The table's entry by the kinds the two modes stand for. -/
theorem headerLength_of_kinds {fc : BitVec 16} {dst src : AddrKind} (hdst : fcDAM fc = addrKindCode dst)
    (hsrc : fcSAM fc = addrKindCode src) (bc : Bool) :
    headerLength fc bc = 3 + dstKindBytes dst + srcPanBytes bc + srcKindBytes src := by
  rw [headerLength, dstBytes_of_kind hdst, srcBytes_of_kind hsrc]

/-- Settles O43: the run is `headerRun_dst_bound`, OFF is what the invariant says of S_BOUND, and each entry of the table is
`headerLength_of_kinds`. -/
theorem headerLengthIsTheTablesEntry : Obligations.HeaderLengthIsTheTablesEntry := by
  intro s h hs ht dam sam bc hlen
  obtain ⟨k, t, hk, hrun, hbound, hbcast⟩ := headerRun_dst_bound h hs ht hlen
  obtain ⟨hvalid, hhdr, hoff⟩ := hrun.inv.progress.header (by rw [hbound]; rfl)
  rw [hrun.fcRaw, hbcast] at hoff
  have entry {dst src : AddrKind} {b : Bool} {v : BitVec 8} (hd : dam = addrKindCode dst) (hm : sam = addrKindCode src)
      (hb : bc = b) (hv : 3 + dstKindBytes dst + srcPanBytes b + srcKindBytes src = v.toNat) : t.off = v :=
    BitVec.eq_of_toNat_eq (by rw [hoff, headerLength_of_kinds hd hm, show s.broadcast = b from hb, hv])
  have hunicast (hd : dam ≠ 2#2) : bc = false := decide_eq_false fun hall => hd hall.1
  have hnone (hd : dam = 0#2) : bc = false := hunicast (by rw [hd]; decide)
  have hlong (hd : dam = 3#2) : bc = false := hunicast (by rw [hd]; decide)
  have hshort (hb : bc = true) : dam = 2#2 := (of_decide_eq_true hb).1
  exact ⟨k, t, hk, hrun.run, hbound, hhdr, hvalid, hbcast, hoff,
    fun hd hm => entry (dst := .none) (src := .none) hd hm (hnone hd) rfl,
    fun hd hm => entry (dst := .none) (src := .short) hd hm (hnone hd) rfl,
    fun hd hm => entry (dst := .none) (src := .long) hd hm (hnone hd) rfl,
    fun hd hb hm => entry (dst := .short) (src := .none) hd hm hb rfl,
    fun hd hb hm => entry (dst := .short) (src := .short) hd hm hb rfl,
    fun hd hb hm => entry (dst := .short) (src := .long) hd hm hb rfl,
    fun hb hm => entry (dst := .short) (src := .none) (hshort hb) hm hb rfl,
    fun hb hm => entry (dst := .short) (src := .short) (hshort hb) hm hb rfl,
    fun hb hm => entry (dst := .short) (src := .long) (hshort hb) hm hb rfl,
    fun hd hm => entry (dst := .long) (src := .none) hd hm (hlong hd) rfl,
    fun hd hm => entry (dst := .long) (src := .short) hd hm (hlong hd) rfl,
    fun hd hm => entry (dst := .long) (src := .long) hd hm (hlong hd) rfl⟩

end Sys2Proof.Machine
end

section
/-! The PAN filter (43_pan_filter.md): what S_FILTER does with a frame, and what a frame that missed it keeps. -/

namespace Sys2Proof.Machine

variable {s : State}

/-! ## The three branches of S_FILTER (43_pan_filter.md R160) -/

theorem exec_sFilter_absent (h : s.res.panValid = false) :
    exec .sFilter s = .next (s.finish .filterMiss Reason.panAbsent) := if_pos (by rw [h]; rfl)

theorem exec_sFilter_present (h : s.res.panValid = true) :
    exec .sFilter s = if s.res.panId ≠ s.cfgPan then .next (s.finish .filterMiss Reason.panMismatch)
      else .next (s.goto FsmCode.segment) := if_neg (by rw [h]; decide)

/-- Settles O44: by PAN_VALID, and with a PAN by its comparison with CFG_PAN. -/
theorem sFilterPassesOnlyTheConfiguredPan : Obligations.SFilterPassesOnlyTheConfiguredPan :=
  fun _ => ⟨exec_sFilter_absent, fun hpan hne => (exec_sFilter_present hpan).trans (if_pos hne),
    fun hpan heq => (exec_sFilter_present hpan).trans (if_neg (not_not_intro heq))⟩

/-! ## What the invariant says of the request (43_pan_filter.md R161) -/

/-- CCM_REQ is 1 in S_CCM_WAIT only (10_state.md R17). -/
theorem Inv.ccmReq_iff (h : Inv s) : s.ccmReq = true ↔ s.state = FsmCode.ccmWait := by
  rw [h.status.ccmReq, beq_iff_eq]

/-- An outcome is reported in S_DONE only (30_encoding.md R72). -/
theorem Inv.done_of_outcome (h : Inv s) (ho : s.res.outcome ≠ .none) : s.state = FsmCode.done := by
  cases hd : s.done with
  | true => exact (h.ended hd).1
  | false => exact absurd (h.results.running hd).1 ho

/-- A frame that missed the filter has no nonce and no request (43_pan_filter.md R161). -/
theorem Inv.miss_unrequested (h : Inv s) (hmiss : s.res.outcome = .filterMiss) :
    s.res.nonceValid = false ∧ s.ccmReq = false := by
  obtain ⟨-, hnonce⟩ := h.results.miss hmiss
  have hdone : s.state = FsmCode.done := h.done_of_outcome (by rw [hmiss]; decide)
  exact ⟨hnonce, by rw [h.status.ccmReq, hdone]; rfl⟩

/-- The engine is asked only for a frame with the configured PAN and an extended source (43_pan_filter.md R161,
44_segment_nonce.md R173). -/
theorem Inv.request_passed (h : Inv s) (hreq : s.ccmReq = true) :
    s.res.panValid = true ∧ s.res.panId = s.cfgPan ∧ s.res.srcKind = .long := by
  have hwait := h.ccmReq_iff.1 hreq
  obtain ⟨hvalid, hpan⟩ := h.progress.pan (by rw [hwait]; rfl)
  obtain ⟨hlong, -, -⟩ := h.progress.wait hwait
  exact ⟨hvalid, hpan, hlong⟩

/-- Settles O45: the next state keeps the invariant, which says both of it. -/
theorem noRequestForAForeignPan : Obligations.NoRequestForAForeignPan := by
  intro s t h hstep
  have ht : Inv t := keepsInv_step h t hstep
  exact ⟨ht.miss_unrequested, ht.request_passed⟩

end Sys2Proof.Machine
end

section
/-! The nonce (44_segment_nonce.md R174, R180): what stands at each of its thirteen places, and that the counter and the
source address can be read back from it. -/

namespace Sys2Proof.Machine

/-- Byte `k` of the source address as the nonce takes it, in either order (44_segment_nonce.md R174). -/
def nonceAddrByte (order : AddrOrder) (src : BitVec 64) (k : Nat) : Byte :=
  match order with
  | .wire => wordByte src k
  | .decoded => decodedByte src k

variable {order : AddrOrder} {pad : Byte} {counter counter' : Vector Byte 4} {a a' : BitVec 64}

/-! ## The three parts of the nonce -/

theorem buildNonce_counter (i : Fin 4) : (buildNonce order pad counter a)[i.val] = counter[i.val] := by
  fin_cases i <;> rfl

theorem buildNonce_address (i : Fin 8) : (buildNonce order pad counter a)[4 + i.val] = nonceAddrByte order a i.val := by
  fin_cases i <;> rfl

theorem buildNonce_pad : (buildNonce order pad counter a)[12] = pad := rfl

theorem State.counterBytes_getElem (s : State) (i : Fin 4) :
    s.counterBytes[i.val] = s.frameByte (s.res.ctrOff.toNat + i.val) := by
  fin_cases i <;> rfl

/-- Settles O48: by the part of the nonce the byte stands in. -/
theorem nonceBytesAreTheRules : Obligations.NonceBytesAreTheRules := by
  intro pad s
  refine ⟨fun i => ⟨?_, ?_⟩, fun i => ⟨buildNonce_address i, buildNonce_address i⟩, buildNonce_pad, buildNonce_pad⟩
  · exact (buildNonce_counter i).trans (s.counterBytes_getElem i)
  · exact (buildNonce_counter i).trans (s.counterBytes_getElem i)

/-! ## The address read back from its bytes -/

/-- A word is determined by its bytes. -/
theorem eq_of_wordByte_eq {w n : Nat} {x y : BitVec w} (hw : w ≤ 8 * n)
    (h : ∀ k, k < n → wordByte x k = wordByte y k) : x = y := by
  refine BitVec.eq_of_getLsbD_eq fun i hi => ?_
  have hbit (z : BitVec w) : z.getLsbD i = (wordByte z (i / 8)).getLsbD (i % 8) := by
    rw [wordByte, BitVec.getLsbD_extractLsb', Nat.div_add_mod, decide_eq_true (Nat.mod_lt i (by decide)), Bool.true_and]
  rw [hbit x, hbit y, h (i / 8) (by omega)]

/-- The decoded view lists the bytes of the address from the other end (10_state.md R23). -/
theorem decodedByte_reverse (a : BitVec 64) {k : Nat} (hk : k < 8) : decodedByte a (7 - k) = wordByte a k := by
  rw [decodedByte, wordByte, show 56 - 8 * (7 - k) = 8 * k by omega]

/-- Either order holds every byte of the address. -/
theorem nonceAddrByte_injective (h : ∀ k, k < 8 → nonceAddrByte order a k = nonceAddrByte order a' k) : a = a' := by
  refine eq_of_wordByte_eq (n := 8) (by decide) fun k hk => ?_
  cases order with
  | wire => exact h k hk
  | decoded =>
    rw [← decodedByte_reverse a hk, ← decodedByte_reverse a' hk]
    exact h (7 - k) (by omega)

/-- Settles O49: the first four bytes are the counter's, and the next eight are all of the address's. -/
theorem noncesAreInjective : Obligations.NoncesAreInjective := by
  intro order pad counter counter' a a' h
  have hcounter (i : Nat) (hi : i < 4) : counter[i] = counter'[i] := by
    rw [← buildNonce_counter (order := order) (pad := pad) (a := a) ⟨i, hi⟩, ← buildNonce_counter ⟨i, hi⟩, h]
  have haddress (k : Nat) (hk : k < 8) : nonceAddrByte order a k = nonceAddrByte order a' k := by
    rw [← buildNonce_address (pad := pad) (counter := counter) ⟨k, hk⟩, ← buildNonce_address ⟨k, hk⟩, h]
  exact ⟨Vector.ext hcounter, nonceAddrByte_injective haddress⟩

end Sys2Proof.Machine
end

section
/-! The operands of the CCM request (44_segment_nonce.md R171, R176): slices of the frame, byte by byte, and that they tile
the frame but its checksum. -/

namespace Sys2Proof.Machine

variable {s : State}

/-! ## Slices of the frame -/

theorem State.frameSlice_eq_map (s : State) (a n : Nat) : s.frameSlice a n = (List.range' a n).map s.frameByte := by
  induction n generalizing a with
  | zero => rfl
  | succ n ih => rw [State.frameSlice, ih, List.range'_succ, List.map_cons]

theorem State.length_frameSlice (s : State) (a n : Nat) : (s.frameSlice a n).length = n := by
  rw [State.frameSlice_eq_map, List.length_map, List.length_range']

theorem State.getElem?_frameSlice (s : State) (a : Nat) {n k : Nat} (hk : k < n) :
    (s.frameSlice a n)[k]? = some (s.frameByte (a + k)) := by
  rw [State.frameSlice_eq_map, List.getElem?_map, List.getElem?_range' hk, Nat.one_mul, Option.map_some]

/-- Adjacent slices make one. -/
theorem State.frameSlice_append (s : State) (a m n : Nat) :
    s.frameSlice a m ++ s.frameSlice (a + m) n = s.frameSlice a (m + n) := by
  simp only [State.frameSlice_eq_map, ← List.map_append, List.range'_append_1]

/-- The counter bytes are the four bytes from CTR_OFF (44_segment_nonce.md R174). -/
theorem State.counterBytes_toList (s : State) : s.counterBytes.toList = s.frameSlice s.res.ctrOff.toNat 4 := rfl

/-- Settles O57: each operand is a slice of the frame. -/
theorem ccmOperandsAreTheRulesBytes : Obligations.CcmOperandsAreTheRulesBytes := by
  intro s slice
  have hslice (a n : Nat) : slice (s.frameSlice a n) a n :=
    ⟨s.length_frameSlice a n, fun _ hk => s.getElem?_frameSlice a hk⟩
  exact ⟨rfl, hslice _ _, hslice _ _, hslice _ _⟩

/-! ## The segments of a frame (44_segment_nonce.md R171) -/

/-- Past S_SEGMENT each segment begins where the one before it ends, and the counter ends at the checksum. -/
structure Segmented (s : State) : Prop where
  associatedData : s.res.adLen.toNat = s.res.payOff.toNat
  tag : s.res.tagOff.toNat = s.res.payOff.toNat + s.res.ctLen.toNat
  counter : s.res.ctrOff.toNat = s.res.tagOff.toNat + 4
  payload : s.res.ctrOff.toNat + 4 = s.res.payOff.toNat + s.res.payLen.toNat
  frame : s.res.payOff.toNat + s.res.payLen.toNat = s.frameLen.toNat - 2

theorem Inv.segmented (h : Inv s) (hs : s.state = FsmCode.nonce ∨ s.state = FsmCode.ccmWait) : Segmented s := by
  obtain ⟨hbound, hsegment⟩ : pastBound s.state = true ∧ pastSegment s.state = true := by
    rcases hs with hs | hs <;> rw [hs] <;> decide
  obtain ⟨hpayOff, hadLen, hframe⟩ := h.progress.payload hbound
  obtain ⟨-, -, hct, htag, hctr, -⟩ := h.progress.segments hsegment
  rw [← hpayOff] at hframe htag
  exact ⟨by rw [hadLen, hpayOff], htag, hctr, by omega, by omega⟩

/-- Associated data, ciphertext, tag and counter are one slice, from 0 to the checksum. -/
theorem Segmented.tile (h : Segmented s) :
    s.ccmOperands.associatedData ++ s.ccmOperands.ciphertext ++ s.ccmOperands.tag ++ s.counterBytes.toList =
      s.frameSlice 0 (s.frameLen.toNat - 2) := by
  obtain ⟨had, htag, hctr, hpay, hframe⟩ := h
  calc s.frameSlice 0 s.res.adLen.toNat ++ s.frameSlice s.res.payOff.toNat s.res.ctLen.toNat ++
        s.frameSlice s.res.tagOff.toNat 4 ++ s.counterBytes.toList
      = s.frameSlice 0 s.res.payOff.toNat ++ s.frameSlice (0 + s.res.payOff.toNat) s.res.ctLen.toNat ++
        s.frameSlice (0 + (s.res.payOff.toNat + s.res.ctLen.toNat)) 4 ++
        s.frameSlice (0 + (s.res.payOff.toNat + s.res.ctLen.toNat + 4)) 4 := by
          simp only [had, State.counterBytes_toList, hctr, htag, Nat.zero_add]
    _ = s.frameSlice 0 (s.res.payOff.toNat + s.res.ctLen.toNat + 4 + 4) := by simp only [State.frameSlice_append]
    _ = s.frameSlice 0 (s.frameLen.toNat - 2) := by rw [← hframe, ← hpay, hctr, htag]

/-- Settles O50: the invariant gives where the segments stand, and `Segmented.tile` that they leave no gap. -/
theorem segmentsTileTheFrame : Obligations.SegmentsTileTheFrame := by
  intro s h hs
  have hseg := h.segmented hs
  refine ⟨hseg.payload, hseg.frame, hseg.tag, hseg.tile, rfl, fun hwait => ?_⟩
  obtain ⟨-, -, hnonce⟩ := h.progress.wait hwait
  exact hnonce

end Sys2Proof.Machine
end

section
/-! S_SEGMENT, S_NONCE and S_CCM_WAIT (44_segment_nonce.md R170, R173, R177): the branches of each state, with the next
state written out. -/

namespace Sys2Proof.Machine

variable {s : State}

/-! ## S_SEGMENT (R170) -/

/-- The segmentation in the registers' own arithmetic, where the payload has room for tag and counter. -/
theorem State.takeSegments_eq (hroom : 8 ≤ s.res.payLen.toNat) (c : Nat) :
    s.takeSegments c =
      { s with
        res := { s.res with
          ctLen := s.res.payLen - 8#8, tagOff := s.res.payOff + s.res.payLen - 8#8,
          ctrOff := s.res.payOff + s.res.payLen - 4#8, frameCounter := BitVec.ofNat 32 c, segValid := true } } := by
  have hend : BitVec.ofNat 8 (s.res.payOff.toNat + s.res.payLen.toNat) = s.res.payOff + s.res.payLen := by
    rw [BitVec.ofNat_add, BitVec.ofNat_toNat, BitVec.ofNat_toNat, BitVec.setWidth_eq, BitVec.setWidth_eq]
  have hct : BitVec.ofNat 8 (s.res.payLen.toNat - 8) = s.res.payLen - 8#8 := by
    rw [← BitVec.ofNat_sub_ofNat_of_le _ _ (by decide) hroom, BitVec.ofNat_toNat, BitVec.setWidth_eq]
  have htag : BitVec.ofNat 8 s.res.tagAt = s.res.payOff + s.res.payLen - 8#8 := by
    rw [Results.tagAt, ← BitVec.ofNat_sub_ofNat_of_le _ _ (by decide) (by omega), hend]
  have hctr : BitVec.ofNat 8 s.res.ctrAt = s.res.payOff + s.res.payLen - 4#8 := by
    rw [Results.ctrAt, ← BitVec.ofNat_sub_ofNat_of_le _ _ (by decide) (by omega), hend]
  rw [State.takeSegments, hct, htag, hctr]
  rfl

theorem exec_sSegment_short (h : s.res.payLen.toNat < 8) :
    exec .sSegment s = .next (s.finish .structuralError Reason.payloadTooShort) := if_pos h

theorem exec_sSegment_enough (hroom : 8 ≤ s.res.payLen.toNat)
    (hpay : s.res.payOff.toNat + s.res.payLen.toNat ≤ s.frameLen.toNat) :
    exec .sSegment s = .next ((s.takeSegments (s.readLe s.res.ctrAt 4)).goto FsmCode.nonce) :=
  calc exec .sSegment s
      = fsmRead s s.res.ctrAt 4 fun c => .next ((s.takeSegments c).goto FsmCode.nonce) := if_neg (Nat.not_lt.2 hroom)
    _ = .next ((s.takeSegments (s.readLe s.res.ctrAt 4)).goto FsmCode.nonce) :=
        fsmRead_inside _ (by rw [Results.ctrAt]; omega)

/-- Settles O46: by the room in the payload. -/
theorem sSegmentSplitsThePayload : Obligations.SSegmentSplitsThePayload := by
  refine fun s hpay => ⟨exec_sSegment_short, fun hroom => ?_⟩
  rw [exec_sSegment_enough hroom hpay, State.takeSegments_eq hroom]
  rfl

/-! ## S_NONCE (R173) -/

theorem exec_sNonce_notExtended (h : s.res.srcKind ≠ .long) :
    exec .sNonce s = .next (s.finish .structuralError Reason.srcNotExtended) := if_pos h

theorem exec_sNonce_extended (hlong : s.res.srcKind = .long) (hctr : s.res.ctrOff.toNat + 4 ≤ s.frameLen.toNat) :
    exec .sNonce s = .next ((s.takeNonce.setCcmReq true).goto FsmCode.ccmWait) :=
  calc exec .sNonce s
      = fsmRead s s.res.ctrOff.toNat 4 fun _ => .next ((s.takeNonce.setCcmReq true).goto FsmCode.ccmWait) :=
        if_neg (not_not_intro hlong)
    _ = .next ((s.takeNonce.setCcmReq true).goto FsmCode.ccmWait) := fsmRead_inside _ hctr

/-- Settles O47: by the kind of the source. -/
theorem sNonceBuildsTheNonceAndAsksTheEngine : Obligations.SNonceBuildsTheNonceAndAsksTheEngine :=
  fun _ hctr => ⟨exec_sNonce_notExtended, fun hlong => exec_sNonce_extended hlong hctr⟩

/-! ## S_CCM_WAIT (R177) -/

theorem exec_sCcmWait_taken {ok : Bool} (hdone : s.ccmDone = some ok) (hs : s.state = FsmCode.ccmWait) :
    exec .sCcmWait s =
      .next (((s.setCcmDone none).setCcmReq false).finish (if ok then .okData else .authError)
        (if ok then Reason.none else Reason.authTagMismatch)) :=
  (execSCcmWait_answered hdone).trans (congrArg _ (State.answerCcm_taken ok hs))

/-- Outside S_CCM_WAIT the event is gone after the turn, and without an event it is as if it were gone (log entry 6). -/
theorem exec_sCcmWait_ignored (hs : s.state ≠ FsmCode.ccmWait) : exec .sCcmWait s = .next (s.setCcmDone none) := by
  rcases hdone : s.ccmDone with _ | ok
  · have hkept : s.setCcmDone none = s := by rw [← hdone]; rfl
    rw [hkept]
    exact execSCcmWait_waits hdone
  · exact (execSCcmWait_answered hdone).trans (congrArg _ (State.answerCcm_ignored ok hs))

/-- Settles O51: by the event, and with one by STATE. -/
theorem sCcmWaitTakesTheEnginesAnswer : Obligations.SCcmWaitTakesTheEnginesAnswer :=
  fun _ => ⟨execSCcmWait_waits, exec_sCcmWait_taken, exec_sCcmWait_taken, exec_sCcmWait_ignored⟩

end Sys2Proof.Machine
end

section
/-! No step stops (60_exceptions.md R207, 20_memory.md R48): in a state of the invariant every read of the FSM lies in the
frame and no reserved mode is met, and no host transaction stops in any state. -/

namespace Sys2Proof.Machine

variable {s : State} {ts : List Turn}

/-- The answer is a next state, in which the turns listed are `ts` and the FSM is not back in S_IDLE. -/
def Advances (ts : List Turn) (a : Answer) : Prop := ∃ t, a = .next t ∧ t.turns = ts ∧ t.state ≠ FsmCode.idle

theorem Advances.answersNext {a : Answer} (h : Advances ts a) : AnswersNext a := by
  obtain ⟨t, ht, -, -⟩ := h
  exact ⟨t, ht⟩

/-! That an operation keeps the turns is its own simp lemma, so the rules that need it ask `simp` for it. -/

theorem Advances.finish {o : ParseOutcome} {r : BitVec 8} (ht : s.turns = ts := by simp) :
    Advances ts (.next (s.finish o r)) := ⟨_, rfl, ht, nofun⟩

theorem Advances.goto {code : BitVec 4} (ht : s.turns = ts := by simp) (hcode : code ≠ FsmCode.idle := by decide) :
    Advances ts (.next (s.goto code)) := ⟨_, rfl, ht, hcode⟩

theorem Advances.ite {c : Prop} [Decidable c] {a b : Answer} (ha : c → Advances ts a) (hb : ¬ c → Advances ts b) :
    Advances ts (if c then a else b) := by
  split
  · next h => exact ha h
  · next h => exact hb h

/-- A read inside the frame goes on with its value (20_memory.md R48). -/
theorem Advances.fsmRead {a n : Nat} {k : Nat → Answer} (hin : a + n ≤ s.frameLen.toNat)
    (hk : ∀ v, Advances ts (k v)) : Advances ts (fsmRead s a n k) := by
  rw [fsmRead_inside k hin]
  exact hk _

/-- `need` ends the parse, or goes on with the bytes inside the frame (00_scope.md R8). -/
theorem Advances.need {n : Nat} {code : BitVec 8} {k : Answer} (hk : s.off.toNat + n ≤ s.frameLen.toNat → Advances ts k)
    (ht : s.turns = ts := by simp) : Advances ts (need s n code k) :=
  .ite (fun _ => .finish ht) fun h => hk (Nat.not_lt.1 h)

/-- A field at OFF: `need` has checked the bytes the read takes. -/
theorem Advances.need_read {n : Nat} {code : BitVec 8} {k : Nat → Answer} (hk : ∀ v, Advances ts (k v))
    (ht : s.turns = ts := by simp) : Advances ts (Machine.need s n code (Machine.fsmRead s s.off.toNat n k)) :=
  .need (fun hin => .fsmRead hin hk) ht

/-! One lemma per state of the FSM with a step of its own. The invariant is used where a read is not at OFF, and where a
mode is looked at. -/

theorem advances_runFrameControl (fc : BitVec 16) : Advances s.turns (runFrameControl fc s) := by
  unfold runFrameControl
  cases classifyFc fc with
  | ftData | ftAck => exact .goto
  | _ => exact .finish

theorem advances_sFc : Advances s.turns (execSFc s) :=
  .ite (fun _ => .finish) fun hlen => .fsmRead (Nat.not_lt.1 hlen) fun _ => advances_runFrameControl _

theorem advances_sAck : Advances s.turns (execSAck s) :=
  .ite (fun hlen => .fsmRead hlen fun _ => .finish) fun _ => .finish

/-- The sequence number stands at OFF = 2 (42_addressing.md R130). -/
theorem advances_sSeq (h : Inv s) (hs : s.state = FsmCode.seq) : Advances s.turns (execSSeq s) := by
  have hoff := h.progress.atSeq hs
  exact .need fun hin => .fsmRead (by rwa [hoff] at hin) fun _ => .goto

theorem advances_sDst (h : Inv s) (hs : s.state = FsmCode.dst) : Advances s.turns (execSDst s) := by
  obtain ⟨-, hdam, -⟩ := h.progress.modes (by rw [hs]; rfl)
  rcases hmode : classifyMode (fcDAM s.res.fcRaw) with _ | _ | _ | _
  · exact absurd ((classifyMode_eq_none_iff _).1 hmode) hdam
  · rw [execSDst_none hmode]; exact .goto
  · rw [execSDst_short hmode]
    exact .need_read fun _ => .need_read fun _ => .ite (fun _ => .goto) fun _ => .goto
  · rw [execSDst_long hmode]
    exact .need_read fun _ => .need_read fun _ => .goto

theorem advances_sSrcPan : Advances s.turns (execSSrcPan s) := .need_read fun _ => .goto

theorem advances_sSrc (h : Inv s) (hs : s.state = FsmCode.src) : Advances s.turns (execSSrc s) := by
  obtain ⟨-, -, hsam⟩ := h.progress.modes (by rw [hs]; rfl)
  rcases hmode : classifyMode (fcSAM s.res.fcRaw) with _ | _ | _ | _
  · exact absurd ((classifyMode_eq_none_iff _).1 hmode) hsam
  · rw [execSSrc_none hmode]; exact .goto
  · rw [execSSrc_short hmode]; exact .need_read fun _ => .goto
  · rw [execSSrc_long hmode]; exact .need_read fun _ => .goto

theorem advances_sBound : Advances s.turns (execSBound s) := .need fun _ => .goto

theorem advances_sFilter : Advances s.turns (execSFilter s) :=
  .ite (fun _ => .finish) fun _ => .ite (fun _ => .finish) fun _ => .goto

/-- The counter ends where the payload ends, inside the frame (44_segment_nonce.md R170, R171). -/
theorem advances_sSegment (h : Inv s) (hs : s.state = FsmCode.segment) : Advances s.turns (execSSegment s) := by
  obtain ⟨hpayOff, -, hframe⟩ := h.progress.payload (by rw [hs]; rfl)
  refine .ite (fun _ => .finish) fun hroom => .fsmRead ?_ fun _ => .goto
  rw [Results.ctrAt, hpayOff]
  omega

theorem advances_sNonce (h : Inv s) (hs : s.state = FsmCode.nonce) : Advances s.turns (execSNonce s) := by
  have hseg := h.segmented (.inl hs)
  refine .ite (fun _ => .finish) fun _ => .fsmRead ?_ fun _ => .goto
  rw [hseg.payload, hseg.frame]
  exact Nat.sub_le _ _

/-- BUSY = 1 in the states of a parse (10_state.md R17, R30). -/
theorem Inv.busy_iff (h : Inv s) : s.busy = true ↔ s.state ≠ FsmCode.idle ∧ s.state ≠ FsmCode.done := by
  rw [h.status.busy, Bool.and_eq_true, bne_iff_ne, bne_iff_ne]

/-- The block's own turn in a parse answers a next state, and the FSM does not go back to S_IDLE. -/
theorem advances_fsm (h : Inv s) {i : Instr} (hi : decode (.fsm4 s.state) = .ok i) (hb : s.busy = true) :
    Advances s.turns (exec i s) := by
  obtain ⟨hidle, hdone⟩ := h.busy_iff.1 hb
  rcases decodeFsm_cases hi with ⟨hs, -⟩ | ⟨-, rfl⟩ | ⟨-, rfl⟩ | ⟨hs, rfl⟩ | ⟨hs, rfl⟩ | ⟨-, rfl⟩ | ⟨hs, rfl⟩ |
    ⟨-, rfl⟩ | ⟨-, rfl⟩ | ⟨hs, rfl⟩ | ⟨hs, rfl⟩ | ⟨-, rfl⟩ | ⟨hs, -⟩
  · exact absurd hs hidle
  · exact advances_sFc
  · exact advances_sAck
  · exact advances_sSeq h hs
  · exact advances_sDst h hs
  · exact advances_sSrcPan
  · exact advances_sSrc h hs
  · exact advances_sBound
  · exact advances_sFilter
  · exact advances_sSegment h hs
  · exact advances_sNonce h hs
  · exact ⟨s, execSCcmWait_waits h.status.ccmDone, rfl, hidle⟩
  · exact absurd hs hdone

/-! ## The host's turn and the engine's, in any state -/

theorem AnswersNext.exec_ite {c : Prop} [Decidable c] {i j : Instr} (hi : AnswersNext (exec i s))
    (hj : AnswersNext (exec j s)) : AnswersNext (exec (if c then i else j) s) := by
  split
  · exact hi
  · exact hj

/-- A transaction taken or not: a next state either way (40_host_commands.md R90 to R94, 20_memory.md R47). -/
theorem AnswersNext.access {c : Prop} [Decidable c] {t u : State} :
    AnswersNext (if c then .next t else .next u) := .ite (.next _) (.next _)

theorem answersNext_wrCmd (v : Word) : AnswersNext (execWrCmd v s) := by
  unfold execWrCmd
  cases classifyCmd v with
  | parse => exact .access
  | nop | clear | undefined => exact .next _

/-- Any descriptor with any value: the patterns of 30_encoding.md R82 in their order. -/
theorem answersNext_host (s : State) (td : BitVec 11) (v : Word) : AnswersNext (exec (decodeTd td v) s) :=
  .exec_ite (answersNext_wrCmd v) <| .exec_ite (.next _) <| .exec_ite (.next _) <| .exec_ite (.next _) <|
  .exec_ite .access <| .exec_ite (.ite (.next _) .access) <| .exec_ite .access <|
  .exec_ite (.ite (.next _) .access) <| .exec_ite .access <|
  .ite (.next _) <| .ite .access <| .ite .access .access

theorem answersNext_sCcmWait (s : State) : AnswersNext (exec .sCcmWait s) := by
  rcases hdone : s.ccmDone with _ | ok
  · exact ⟨_, execSCcmWait_waits hdone⟩
  · exact ⟨_, execSCcmWait_answered hdone⟩

/-- Every turn, from every state of the invariant. -/
theorem answersNext_step (h : Inv s) : AnswersNext (step s) := by
  obtain ⟨j, hj⟩ := decode_of_stateLegal h.status.legal
  cases ht : s.turns with
  | nil =>
    cases hb : s.busy with
    | true => rw [step_unlisted_busy hj ht hb]; exact (advances_fsm h hj hb).answersNext
    | false => rw [step_unlisted_resting hj ht hb]; exact .next _
  | cons turn rest =>
    cases turn with
    | host td v => rw [step_host hj ht (i := decodeTd td v) rfl]; exact answersNext_host _ td v
    | otherWidth w off => rw [step_otherWidth hj ht]; exact .next _
    | block =>
      cases hb : s.busy with
      | true => rw [step_block_busy hj ht hb]; exact (advances_fsm (h.setTurns rest) hj hb).answersNext
      | false => rw [step_block_resting hj ht hb]; exact .next _
    | engine ok => rw [step_engine hj ht]; exact answersNext_sCcmWait _
    | reset => rw [step_reset hj ht]; exact .next _

/-- Settles O12: by the kind of turn, and on the block's turn by the state of the FSM. -/
theorem noFrameContentStopsTheMachine : Obligations.NoFrameContentStopsTheMachine :=
  fun _ h => answersNext_step h

end Sys2Proof.Machine
end

section
/-! The measure of a parse (60_exceptions.md R207, 30_encoding.md R74): the block's turn lowers it, every other turn but
CLEAR and reset keeps it, and at 0 the parse has ended or waits for the engine. -/

namespace Sys2Proof.Machine

variable {s : State}

/-- Out of S_IDLE a parse has no step left exactly at its end and in S_CCM_WAIT. -/
theorem Inv.stepsLeft_eq_zero_iff (h : Inv s) (hidle : s.state ≠ FsmCode.idle) :
    stepsLeft s.state = 0 ↔ s.parseEnded := by
  rw [stepsLeft_eq_zero h.status.legal, or_iff_right hidle]
  rfl

/-- The block's turn in a parse, listed or not. -/
theorem leavesFewer_blockTurn {j : Instr} (hj : decode (.fsm4 s.state) = .ok j) (hb : s.busy = true)
    (ht : s.turns = [] ∨ ∃ rest, s.turns = .block :: rest) (hleft : stepsLeft s.state ≠ 0) :
    LeavesFewer (stepsLeft s.state) (step s) := by
  rcases ht with ht | ⟨rest, ht⟩
  · rw [step_unlisted_busy hj ht hb]
    exact leavesFewer_fsm hj hleft
  · rw [step_block_busy hj ht hb]
    exact leavesFewer_fsm (s := s.setTurns rest) hj hleft

/-- The turns still listed are `ts`, and `n` steps of the block are left. -/
def StillLeft (ts : List Turn) (n : Nat) (t : State) : Prop := t.turns = ts ∧ stepsLeft t.state = n

/-- In a parse no host transaction but CLEAR moves the FSM (40_host_commands.md R90 to R96). -/
theorem HostEffect.stillLeft {td : BitVec 11} {v : Word} {t : State} (h : HostEffect s td v t) (hb : s.busy = true)
    (hclear : td = 0x70C#11 → v ≠ 2#32) : StillLeft s.turns (stepsLeft s.state) t := by
  cases h with
  | refused write => rw [State.refuse_eq]; exact ⟨rfl, rfl⟩
  | loaded hrest | parse _ _ hrest => simp [hb] at hrest
  | clear htd hv => exact absurd hv (hclear htd)
  | _ => exact ⟨rfl, rfl⟩

/-- The engine's answer ends a parse that waits for it, and elsewhere it changes nothing: neither takes a step of the block
(44_segment_nonce.md R177). -/
theorem stillLeft_answerCcm (s : State) (ok : Bool) : StillLeft s.turns (stepsLeft s.state) (s.answerCcm ok) := by
  by_cases hwait : s.state = FsmCode.ccmWait
  · rw [State.answerCcm_taken ok hwait, hwait]
    exact ⟨rfl, rfl⟩
  · rw [State.answerCcm_ignored ok hwait]
    exact ⟨rfl, rfl⟩

theorem stillLeft_engine (s : State) (ok : Bool) :
    OnNext (StillLeft s.turns (stepsLeft s.state)) (execSCcmWait (s.setCcmDone (some ok))) := by
  rw [execSCcmWait_answered (s := s.setCcmDone (some ok)) rfl]
  exact .next (stillLeft_answerCcm ((s.setCcmDone (some ok)).setCcmDone none) ok)

/-- A turn of the host or the engine in a parse. -/
theorem stillLeft_step {j : Instr} (hj : decode (.fsm4 s.state) = .ok j) (hb : s.busy = true) {u : Turn}
    {rest : List Turn} (ht : s.turns = u :: rest) (hblock : u ≠ .block) (hreset : u ≠ .reset)
    (hclear : u ≠ .host 0x70C#11 2#32) : OnNext (StillLeft rest (stepsLeft s.state)) (step s) := by
  cases u with
  | host td v =>
    rw [step_host hj ht (i := decodeTd td v) rfl]
    exact (hostEffect_host _ td v).mono fun _ heffect =>
      heffect.stillLeft (s := s.setTurns rest) hb fun htd hv => hclear (by rw [htd, hv])
  | otherWidth w off =>
    rw [step_otherWidth hj ht, State.refuse_eq]
    exact .next ⟨rfl, rfl⟩
  | block => exact absurd rfl hblock
  | engine ok =>
    rw [step_engine hj ht]
    exact stillLeft_engine (s.setTurns rest) ok
  | reset => exact absurd rfl hreset

/-- Settles O58: by whose turn it is. -/
theorem eachBlockStepLowersTheMeasure : Obligations.EachBlockStepLowersTheMeasure := by
  intro s t h hb hstep
  obtain ⟨j, hj⟩ := decode_of_stateLegal h.status.legal
  obtain ⟨hidle, -⟩ := h.busy_iff.1 hb
  exact ⟨stepsLeft_le _,
    fun ht hleft => leavesFewer_blockTurn hj hb ht (Nat.ne_of_gt hleft) t hstep,
    fun _ _ ht hblock hreset hclear => stillLeft_step hj hb ht hblock hreset hclear t hstep,
    h.stepsLeft_eq_zero_iff hidle⟩

/-! ## A parse left to itself (60_exceptions.md R207) -/

/-- A run of one step more. -/
theorem run_succ_of_step {t : State} (hstep : step s = .next t) (k : Nat) :
    Host.Core.run Sys2Proof.core (k + 1) s = Host.Core.run Sys2Proof.core k t := by
  have hcore : Sys2Proof.core.step s = .next t := hstep
  simp only [Host.Core.run, hcore]

/-- One step of a parse left to itself: the invariant holds of the next state, the parse is still left to itself and out of
S_IDLE, and fewer steps are left. -/
theorem Inv.step_alone (h : Inv s) (hidle : s.state ≠ FsmCode.idle) (ht : s.turns = []) (hleft : stepsLeft s.state ≠ 0) :
    ∃ t, step s = .next t ∧ Inv t ∧ t.state ≠ FsmCode.idle ∧ t.turns = [] ∧ stepsLeft t.state < stepsLeft s.state := by
  obtain ⟨j, hj⟩ := decode_of_stateLegal h.status.legal
  have hdone : s.state ≠ FsmCode.done := fun hd => hleft ((h.stepsLeft_eq_zero_iff hidle).2 (.inl hd))
  have hb : s.busy = true := h.busy_iff.2 ⟨hidle, hdone⟩
  obtain ⟨t, hexec, hturns, hgo⟩ := advances_fsm h hj hb
  have hstep : step s = .next t := (step_unlisted_busy hj ht hb).trans hexec
  exact ⟨t, hstep, keepsInv_step h t hstep, hgo, hturns.trans ht, leavesFewer_blockTurn hj hb (.inl ht) hleft t hstep⟩

/-- A parse left to itself ends within the steps it has left. -/
theorem Inv.parse_ends (h : Inv s) (hidle : s.state ≠ FsmCode.idle) (ht : s.turns = []) :
    ∃ k t, k ≤ stepsLeft s.state ∧ Host.Core.run Sys2Proof.core k s = .next t ∧ t.parseEnded := by
  induction hn : stepsLeft s.state using Nat.strong_induction_on generalizing s with
  | _ n ih =>
    by_cases hleft : stepsLeft s.state = 0
    · exact ⟨0, s, Nat.zero_le n, rfl, (h.stepsLeft_eq_zero_iff hidle).1 hleft⟩
    · obtain ⟨t, hstep, hinv, hgo, hturns, hlt⟩ := h.step_alone hidle ht hleft
      obtain ⟨k, u, hk, hrun, hended⟩ := ih _ (hn ▸ hlt) hinv hgo hturns rfl
      exact ⟨k + 1, u, by omega, (run_succ_of_step hstep k).trans hrun, hended⟩

/-- The engine's answer to a parse that waits for it (44_segment_nonce.md R177). -/
theorem step_engine_answered {ok : Bool} {rest : List Turn} (hs : s.state = FsmCode.ccmWait)
    (ht : s.turns = .engine ok :: rest) :
    ∃ t, step s = .next t ∧ t.state = FsmCode.done ∧ t.res.outcome = if ok then .okData else .authError := by
  have hj : decode (.fsm4 s.state) = .ok .sCcmWait := by rw [hs]; rfl
  exact ⟨_, (step_engine hj ht).trans (exec_sCcmWait_taken (s := (s.setTurns rest).setCcmDone (some ok)) rfl hs), rfl, rfl⟩

/-- Settles O13: S_FC has nine steps left, and `Inv.parse_ends` says that they are enough. -/
theorem everyParseEndsWithinNineSteps : Obligations.EveryParseEndsWithinNineSteps := by
  refine ⟨fun s h hs ht => ?_, fun s ok rest _ hs ht => step_engine_answered hs ht⟩
  obtain ⟨k, t, hk, hrun, hended⟩ := h.parse_ends (by rw [hs]; decide) ht
  exact ⟨k, t, hk.trans (stepsLeft_le _), hrun, hended⟩

end Sys2Proof.Machine
end

section
/-! The output `irq` (60_exceptions.md R210): the level IRQ_EN and DONE, after each operation that writes one of the two. -/

namespace Sys2Proof.Machine

variable {s : State}

theorem State.finish_irq (s : State) (o : ParseOutcome) (r : BitVec 8) : (s.finish o r).irq = s.irqEn :=
  Bool.and_true _

theorem State.irq_of_not_done (h : s.done = false) : s.irq = false := by
  rw [State.irq, h, Bool.and_false]

/-- Settles O32: `irq` rises with `finish`, falls with the DONE that PARSE and CLEAR take away, and follows CTRL. -/
theorem irqFollowsDoneWhenEnabled : Obligations.IrqFollowsDoneWhenEnabled := by
  refine fun s t => ⟨rfl, s.finish_irq, fun hb hparse => ?_, fun hclear => ?_, fun v hctrl => ?_⟩
  · obtain rfl : s.startParse = t := Host.Outcome.next.inj ((execParse_resting hb).symm.trans hparse)
    exact State.irq_of_not_done rfl
  · obtain rfl : s.clearAll = t := Host.Outcome.next.inj hclear
    exact State.irq_of_not_done rfl
  · obtain rfl : s.setIrqEn (v.getLsbD 0) = t := Host.Outcome.next.inj ((exec_wr32Reg_ctrl s v).symm.trans hctrl)
    rfl

end Sys2Proof.Machine
end

section
/-! The state after reset (70_reset_and_hazards.md R230). -/

namespace Sys2Proof.Machine

/-- Settles O10: reset leaves S_IDLE with a clean result set, which meets the invariant whatever the inputs are. -/
theorem resetMeetsTheInvariant : Obligations.ResetMeetsTheInvariant := .idle rfl rfl rfl rfl rfl rfl rfl fun _ => rfl

/-- STATUS after reset: every flag, STATE, OUTCOME, REASON and END_OFF are 0 (10_state.md R17). -/
theorem State.reset_statusWord : State.reset.statusWord = 0#32 := by decide

/-- No byte has been written after reset, so each is the free value of its address (70_reset_and_hazards.md R232). -/
theorem State.reset_frameByte (a : Nat) : State.reset.frameByte a = Config.unwrittenByte 0 a := rfl

theorem Results.reset_nonce_byte (k : Fin 13) : Results.reset.nonce[k.val] = 0#8 :=
  Vector.getElem_replicate k.isLt

/-- Settles O14: register by register, each at the value `State.reset` writes out. -/
theorem resetLeavesTheStatedValues : Obligations.ResetLeavesTheStatedValues :=
  ⟨rfl, rfl, rfl, State.reset_statusWord, rfl, by decide, rfl, rfl, rfl, by decide, by decide, rfl,
    Results.reset_nonce_byte, rfl, rfl, rfl, rfl, rfl, State.reset_frameByte, rfl, rfl, rfl, rfl, rfl⟩

end Sys2Proof.Machine
end

section
/-! What only the host's port shows (10_state.md R15, R17, 40_host_commands.md R90): CTRL, the sticky bits of STATUS and the
value last read. No rule of the block reads or writes them, and in a parse the host writes nothing else. -/

namespace Sys2Proof.Machine

/-- The machine with what only the port shows at its reset values. -/
def State.quiet (s : State) : State :=
  { s with irqEn := false, wrWhileBusy := false, cmdWhileBusy := false, badCmd := false, busErr := false, rdata := 0#32 }

/-- The next state, where there is one, with the port's fields at their reset values. -/
def quietAnswer : Answer → Answer
  | .next s => .next s.quiet
  | .fault r => .fault r
  | .refused r => .refused r

variable {s : State}

/-! The rules of the shared operations, and one lemma per state of the FSM that looks a row up. -/

theorem ite_quiet {c : Prop} [Decidable c] {x y x' y' : Answer} (hx : x' = quietAnswer x) (hy : y' = quietAnswer y) :
    (if c then x' else y') = quietAnswer (if c then x else y) := by
  rw [hx, hy, apply_ite quietAnswer]

theorem need_quiet {n : Nat} {code : BitVec 8} {k k' : Answer} (hk : k' = quietAnswer k) :
    need s.quiet n code k' = quietAnswer (need s n code k) := ite_quiet rfl hk

theorem fsmRead_quiet {a n : Nat} {k k' : Nat → Answer} (hk : ∀ v, k' v = quietAnswer (k v)) :
    fsmRead s.quiet a n k' = quietAnswer (fsmRead s a n k) := by
  have hread : s.quiet.readLe a n = s.readLe a n := State.readLe_congr (s := s) (t := s.quiet) rfl rfl a n
  exact ite_quiet ((congrArg k' hread).trans (hk _)) rfl

theorem runFrameControl_quiet (fc : BitVec 16) : runFrameControl fc s.quiet = quietAnswer (runFrameControl fc s) := by
  unfold runFrameControl
  cases classifyFc fc <;> rfl

theorem readDstPan_quiet {k : State → Answer}
    (hk : ∀ p, k (s.takeDstPan p).quiet = quietAnswer (k (s.takeDstPan p))) :
    readDstPan s.quiet k = quietAnswer (readDstPan s k) := need_quiet (fsmRead_quiet hk)

theorem readDstAddr_quiet {kind : AddrKind} {n : Nat} {k : State → Answer}
    (hk : ∀ a, k (s.takeDstAddr kind a n).quiet = quietAnswer (k (s.takeDstAddr kind a n))) :
    readDstAddr s.quiet kind n k = quietAnswer (readDstAddr s kind n k) := need_quiet (fsmRead_quiet hk)

theorem execSDst_quiet : execSDst s.quiet = quietAnswer (execSDst s) := by
  rcases hmode : classifyMode (fcDAM s.res.fcRaw) with _ | _ | _ | _
  · rw [execSDst_reserved hmode, execSDst_reserved (s := s.quiet) hmode]; rfl
  · rw [execSDst_none hmode, execSDst_none (s := s.quiet) hmode]; rfl
  · rw [execSDst_short hmode, execSDst_short (s := s.quiet) hmode]
    exact readDstPan_quiet fun _ => readDstAddr_quiet fun _ => ite_quiet rfl rfl
  · rw [execSDst_long hmode, execSDst_long (s := s.quiet) hmode]
    exact readDstPan_quiet fun _ => readDstAddr_quiet fun _ => rfl

theorem execSSrc_quiet : execSSrc s.quiet = quietAnswer (execSSrc s) := by
  rcases hmode : classifyMode (fcSAM s.res.fcRaw) with _ | _ | _ | _
  · rw [execSSrc_reserved hmode, execSSrc_reserved (s := s.quiet) hmode]; rfl
  · rw [execSSrc_none hmode, execSSrc_none (s := s.quiet) hmode]; rfl
  · rw [execSSrc_short hmode, execSSrc_short (s := s.quiet) hmode]
    exact need_quiet (fsmRead_quiet fun _ => rfl)
  · rw [execSSrc_long hmode, execSSrc_long (s := s.quiet) hmode]
    exact need_quiet (fsmRead_quiet fun _ => rfl)

theorem State.answerCcm_quiet (ok : Bool) : s.quiet.answerCcm ok = (s.answerCcm ok).quiet := by
  by_cases hwait : s.state = FsmCode.ccmWait
  · rw [State.answerCcm_taken ok hwait, State.answerCcm_taken (s := s.quiet) ok hwait]; rfl
  · rw [State.answerCcm_ignored ok hwait, State.answerCcm_ignored (s := s.quiet) ok hwait]

theorem execSCcmWait_quiet : execSCcmWait s.quiet = quietAnswer (execSCcmWait s) := by
  rcases hdone : s.ccmDone with _ | ok
  · rw [execSCcmWait_waits hdone, execSCcmWait_waits (s := s.quiet) hdone]; rfl
  · rw [execSCcmWait_answered hdone, execSCcmWait_answered (s := s.quiet) hdone]
    exact congrArg Host.Outcome.next (State.answerCcm_quiet (s := s.setCcmDone none) ok)

/-- The instruction of any state of the FSM neither reads nor writes what only the port shows. -/
theorem exec_fsm_quiet {i : Instr} (hi : decode (.fsm4 s.state) = .ok i) : exec i s.quiet = quietAnswer (exec i s) := by
  rcases decodeFsm_cases hi with ⟨-, rfl⟩ | ⟨-, rfl⟩ | ⟨-, rfl⟩ | ⟨-, rfl⟩ | ⟨-, rfl⟩ | ⟨-, rfl⟩ | ⟨-, rfl⟩ | ⟨-, rfl⟩ |
    ⟨-, rfl⟩ | ⟨-, rfl⟩ | ⟨-, rfl⟩ | ⟨-, rfl⟩ | ⟨-, rfl⟩
  · rfl
  · exact ite_quiet rfl (fsmRead_quiet fun _ => runFrameControl_quiet _)
  · exact ite_quiet (fsmRead_quiet fun _ => rfl) rfl
  · exact need_quiet (fsmRead_quiet fun _ => rfl)
  · exact execSDst_quiet
  · exact need_quiet (fsmRead_quiet fun _ => rfl)
  · exact execSSrc_quiet
  · exact need_quiet rfl
  · exact ite_quiet rfl (ite_quiet rfl rfl)
  · exact ite_quiet rfl (fsmRead_quiet fun _ => rfl)
  · exact ite_quiet rfl (fsmRead_quiet fun _ => rfl)
  · exact execSCcmWait_quiet
  · rfl

theorem State.refuse_quiet (s : State) (write : Bool) : (s.refuse write).quiet = s.quiet := by
  rw [State.refuse_eq]; rfl

/-- In a parse a host transaction but CLEAR writes only what the port shows (40_host_commands.md R90 to R96). -/
theorem HostEffect.quiet_of_busy {td : BitVec 11} {v : Word} {t : State} (h : HostEffect s td v t) (hb : s.busy = true)
    (hclear : td = 0x70C#11 → v ≠ 2#32) : t.quiet = s.quiet := by
  cases h with
  | refused write => exact s.refuse_quiet write
  | loaded hrest | parse _ _ hrest => exact absurd (hb.symm.trans hrest) nofun
  | clear htd hv => exact absurd hv (hclear htd)
  | _ => rfl

end Sys2Proof.Machine
end

section
/-! One turn of a parse that is launched and not aborted (20_memory.md R52, 30_encoding.md R74): what it leaves of the turns
listed, of the steps the block has left and of the request to the engine. -/

namespace Sys2Proof.Machine

variable {s t : State} {u : Turn} {rest : List Turn}

/-- The turn neither starts nor aborts a parse: it is no reset, no PARSE and no CLEAR. -/
def Turn.keepsParse (u : Turn) : Prop := u ≠ .reset ∧ u ≠ .host 0x70C#11 1#32 ∧ u ≠ .host 0x70C#11 2#32

theorem Turn.keepsParse.no_command {td : BitVec 11} {v : Word} (hu : (Turn.host td v).keepsParse) (htd : td = 0x70C#11) :
    v ≠ 1#32 ∧ v ≠ 2#32 := by
  obtain ⟨-, hparse, hclear⟩ := hu
  subst htd
  exact ⟨fun hv => hparse (by rw [hv]), fun hv => hclear (by rw [hv])⟩

/-- From `s` the turn `u` is taken: the block's own has used up a step, if one was left, a request still stands unless the
engine has answered it, and the FSM is not back in S_IDLE. -/
structure Onward (u : Turn) (rest : List Turn) (s t : State) : Prop where
  turns : t.turns = rest
  launched : t.state ≠ FsmCode.idle
  left : stepsLeft t.state ≤ stepsLeft s.state - [u].count .block
  request : s.ccmReq = true → t.ccmReq = !u.isEngine

/-- A turn that moves nothing, where the block has no step to take and no request stands to be answered. -/
theorem Onward.stay (hidle : s.state ≠ FsmCode.idle) (hturns : t.turns = rest) (hstate : t.state = s.state)
    (hreq : t.ccmReq = s.ccmReq) (hblock : u = .block → stepsLeft s.state = 0)
    (hengine : u.isEngine = true → s.ccmReq = false) : Onward u rest s t where
  turns := hturns
  launched := hstate ▸ hidle
  left := by
    rw [hstate]
    by_cases hu : u = .block
    · simp [hblock hu]
    · simp [hu]
  request := fun hr => by
    rw [hreq, hr]
    cases he : u.isEngine with
    | true => exact absurd (hr.symm.trans (hengine he)) nofun
    | false => rfl

/-- No host transaction but PARSE and CLEAR moves the FSM, busy or not (40_host_commands.md R90 to R96). -/
theorem HostEffect.onward {td : BitVec 11} {v : Word} (h : HostEffect (s.setTurns rest) td v t)
    (hidle : s.state ≠ FsmCode.idle) (hcmd : td = 0x70C#11 → v ≠ 1#32 ∧ v ≠ 2#32) : Onward (.host td v) rest s t := by
  cases h with
  | refused write => rw [State.refuse_eq]; exact .stay hidle rfl rfl rfl nofun nofun
  | parse htd hv => exact absurd hv (hcmd htd).1
  | clear htd hv => exact absurd hv (hcmd htd).2
  | _ => exact .stay hidle rfl rfl rfl nofun nofun

/-- The block's turn in a parse: its step, or S_CCM_WAIT waiting. -/
theorem onward_block (h : Inv s) {j : Instr} (hj : decode (.fsm4 s.state) = .ok j) (hb : s.busy = true) :
    OnNext (Onward .block rest s) (exec j (s.setTurns rest)) := by
  obtain ⟨hidle, hdone⟩ := h.busy_iff.1 hb
  by_cases hleft : stepsLeft s.state = 0
  · have hwait : s.state = FsmCode.ccmWait := ((h.stepsLeft_eq_zero_iff hidle).1 hleft).resolve_left hdone
    obtain rfl : Instr.sCcmWait = j := Except.ok.inj (by rw [hwait] at hj; exact hj)
    have hstay : exec .sCcmWait (s.setTurns rest) = .next (s.setTurns rest) := execSCcmWait_waits h.status.ccmDone
    rw [hstay]
    exact .next (.stay hidle rfl rfl rfl (fun _ => hleft) nofun)
  · intro t ht
    obtain ⟨t', ht', hturns, hgo⟩ := advances_fsm (h.setTurns rest) hj hb
    obtain rfl : t' = t := Host.Outcome.next.inj (ht'.symm.trans ht)
    have hfewer : stepsLeft t'.state < stepsLeft s.state := leavesFewer_fsm (s := s.setTurns rest) hj hleft t' ht
    refine ⟨hturns, hgo, Nat.le_sub_one_of_lt hfewer, fun hreq => absurd ?_ hleft⟩
    rw [h.ccmReq_iff.1 hreq]
    rfl

/-- The engine's turn: its answer ends the parse that waits for it, and elsewhere no request stands
(44_segment_nonce.md R177). -/
theorem onward_engine (h : Inv s) (hidle : s.state ≠ FsmCode.idle) (ok : Bool) :
    OnNext (Onward (.engine ok) rest s) (execSCcmWait ((s.setTurns rest).setCcmDone (some ok))) := by
  rw [execSCcmWait_answered (s := (s.setTurns rest).setCcmDone (some ok)) rfl]
  refine .next ?_
  by_cases hwait : s.state = FsmCode.ccmWait
  · rw [State.answerCcm_taken (s := ((s.setTurns rest).setCcmDone (some ok)).setCcmDone none) ok hwait]
    exact ⟨rfl, nofun, Nat.zero_le _, fun _ => rfl⟩
  · rw [State.answerCcm_ignored (s := ((s.setTurns rest).setCcmDone (some ok)).setCcmDone none) ok hwait]
    have hreq : s.ccmReq = false := Bool.eq_false_iff.2 fun hr => hwait (h.ccmReq_iff.1 hr)
    exact .stay hidle rfl rfl rfl nofun fun _ => hreq

/-- Any turn but PARSE, CLEAR and reset, in a parse or after its end. -/
theorem onward_step (h : Inv s) (hidle : s.state ≠ FsmCode.idle) (ht : s.turns = u :: rest) (hu : u.keepsParse) :
    OnNext (Onward u rest s) (step s) := by
  obtain ⟨j, hj⟩ := decode_of_stateLegal h.status.legal
  cases u with
  | host td v =>
    rw [step_host hj ht (i := decodeTd td v) rfl]
    exact (hostEffect_host _ td v).mono fun _ heffect => heffect.onward hidle hu.no_command
  | otherWidth w off =>
    rw [step_otherWidth hj ht, State.refuse_eq]
    exact .next (.stay hidle rfl rfl rfl nofun nofun)
  | block =>
    cases hb : s.busy with
    | true => rw [step_block_busy hj ht hb]; exact onward_block h hj hb
    | false =>
      have hdone : s.state = FsmCode.done := (h.resting hb).resolve_left hidle
      rw [step_block_resting hj ht hb]
      exact .next (.stay hidle rfl rfl rfl (fun _ => by rw [hdone]; rfl) nofun)
  | engine ok => rw [step_engine hj ht]; exact onward_engine h hidle ok
  | reset => exact absurd rfl hu.1

/-! ## A parse the turns listed can bring to its end (70_reset_and_hazards.md R234, 60_exceptions.md R207) -/

/-- A parse is launched, no turn listed starts or aborts one, the block has as many turns as the parse has steps left, and
the engine answers the request that stands and each later one exactly once. -/
structure Attended (s : State) : Prop where
  inv : Inv s
  launched : s.state ≠ FsmCode.idle
  turns : ∀ u ∈ s.turns, u.keepsParse
  blocks : stepsLeft s.state ≤ s.turns.count .block
  answers : engineAnswersOnce s.turns s.ccmReq.toNat s = true

/-- One request can stand at a time: what the engine owes after a turn is the request that stands then. -/
theorem Onward.owed (h : Onward u rest s t) (hasked : u.isEngine = true → 0 < s.ccmReq.toNat) :
    s.ccmReq.toNat + (!s.ccmReq && t.ccmReq).toNat - u.isEngine.toNat = t.ccmReq.toNat := by
  have hreq := h.request
  cases hs : s.ccmReq with
  | true => rw [hreq hs]; cases u.isEngine <;> rfl
  | false =>
    have hunasked : u.isEngine = false := Bool.eq_false_iff.2 fun he => by simpa [hs] using hasked he
    rw [hunasked]
    cases t.ccmReq <;> rfl

/-- A turn of an attended parse answers a next state, which is attended by the turns that are left. -/
theorem Attended.next (h : Attended s) (ht : s.turns = u :: rest) :
    ∃ t, step s = .next t ∧ t.turns = rest ∧ Attended t := by
  obtain ⟨t, hstep⟩ := answersNext_step h.inv
  have hmem : ∀ v ∈ u :: rest, v.keepsParse := ht ▸ h.turns
  have hgo : Onward u rest s t := onward_step h.inv h.launched ht (hmem u List.mem_cons_self) t hstep
  obtain ⟨hasked, hanswers⟩ := (engineAnswersOnce_next ht hstep).1 (ht ▸ h.answers)
  have hcount : (u :: rest).count .block = rest.count .block + [u].count .block := by
    rw [← List.singleton_append, List.count_append, Nat.add_comm]
  refine ⟨t, hstep, hgo.turns, keepsInv_step h.inv t hstep, hgo.launched, ?_, ?_, ?_⟩ <;> rw [hgo.turns]
  · exact fun v hv => hmem v (List.mem_cons_of_mem u hv)
  · have hblocks := h.blocks
    have hleft := hgo.left
    rw [ht, hcount] at hblocks
    omega
  · rwa [hgo.owed hasked] at hanswers

/-- With no turn left the parse has ended: no step is left, and no request stands. -/
theorem Attended.ended (h : Attended s) (ht : s.turns = []) : s.done = true ∧ s.res.outcome ≠ .none := by
  have hreq : s.ccmReq = false := by
    have howed := engineAnswersOnce_nil (ht ▸ h.answers)
    cases hr : s.ccmReq with
    | true => simp [hr] at howed
    | false => rfl
  have hleft : stepsLeft s.state = 0 := by simpa [ht] using h.blocks
  have hdone : s.done = true := by
    rcases (h.inv.stepsLeft_eq_zero_iff h.launched).1 hleft with hs | hs
    · rw [h.inv.status.done, hs]; rfl
    · exact absurd (hreq.symm.trans (h.inv.ccmReq_iff.2 hs)) nofun
  exact ⟨hdone, h.inv.results.ended hdone⟩

end Sys2Proof.Machine
end

section
/-! Two machines that run the same parse (70_reset_and_hazards.md R232, R234): they differ in what bytes no write has set hold
and, in a parse, in what only the port shows, since the host may read such bytes. -/

namespace Sys2Proof.Machine

variable {s s' t t' : State} {m : List Host.Cell} {e : Nat} {u : Turn} {rest : List Turn}

/-- `s'` is `s` with another FRAME_BUF that agrees with it below FRAME_LEN, but for what only the port shows. -/
structure SameParse (m : List Host.Cell) (e : Nat) (s s' : State) : Prop where
  agrees : s.agreesBelow m e
  quiet : s'.quiet = (s.withBuffer m e).quiet

theorem SameParse.state (h : SameParse m e s s') : s'.state = s.state :=
  (congrArg State.state h.quiet :)

theorem SameParse.busy (h : SameParse m e s s') : s'.busy = s.busy :=
  (congrArg State.busy h.quiet :)

theorem SameParse.report (h : SameParse m e s s') : s'.report = s.report :=
  (congrArg State.report h.quiet :)

theorem SameParse.setTurns (h : SameParse m e s s') (ts : List Turn) : SameParse m e (s.setTurns ts) (s'.setTurns ts) where
  agrees := h.agrees
  quiet := (congrArg (State.setTurns · ts) h.quiet :)

theorem SameParse.setCcmDone (h : SameParse m e s s') (d : Option Bool) :
    SameParse m e (s.setCcmDone d) (s'.setCcmDone d) where
  agrees := h.agrees
  quiet := (congrArg (State.setCcmDone · d) h.quiet :)

/-- An operation that keeps the inputs of the parse keeps the agreement of the buffers. -/
theorem State.agreesBelow.of_inputs (h : s.agreesBelow m e) (hinputs : t.inputs = s.inputs) : t.agreesBelow m e := by
  simp only [State.inputs, Prod.mk.injEq] at hinputs
  obtain ⟨hbuf, hepoch, hlen, -⟩ := hinputs
  intro a ha
  rw [State.frameByte_congr hbuf hepoch]
  exact h a (hlen ▸ ha)

/-- Turns that write only what the port shows, taken on both sides. -/
theorem SameParse.of_quiet (h : SameParse m e s s') (hinputs : t.inputs = s.inputs) (ht : t.quiet = s.quiet)
    (ht' : t'.quiet = s'.quiet) : SameParse m e t t' where
  agrees := h.agrees.of_inputs hinputs
  quiet := by
    calc t'.quiet = (s.withBuffer m e).quiet := ht'.trans h.quiet
      _ = s.quiet.withBuffer m e := rfl
      _ = (t.withBuffer m e).quiet := by rw [← ht]; rfl

/-- One operation of the block on both sides, where it sees neither the exchange of the buffer nor the port. -/
theorem SameParse.of_block (h : SameParse m e s s') {f : State → Answer}
    (hbuf : f (s.withBuffer m e) = answerWithBuffer m e (f s))
    (hport : ∀ v : State, v.state = s.state → f v.quiet = quietAnswer (f v))
    (hinputs : t.inputs = s.inputs) (ht : f s = .next t) (ht' : f s' = .next t') : SameParse m e t t' where
  agrees := h.agrees.of_inputs hinputs
  quiet := Host.Outcome.next.inj <| by
    calc quietAnswer (.next t') = f s'.quiet := by rw [← ht', hport s' h.state]
      _ = f (s.withBuffer m e).quiet := by rw [h.quiet]
      _ = quietAnswer (answerWithBuffer m e (.next t)) := by rw [hport (s.withBuffer m e) rfl, hbuf, ht]

/-- In a parse the same turn keeps the two machines the same. -/
theorem SameParse.step (h : SameParse m e s s') (hlegal : stateLegal s.state = true) (hb : s.busy = true)
    (ht : s.turns = u :: rest) (ht' : s'.turns = u :: rest) (hu : u.keepsParse)
    (hstep : step s = .next t) (hstep' : step s' = .next t') : SameParse m e t t' := by
  obtain ⟨j, hj⟩ := decode_of_stateLegal hlegal
  have hj' : decode (.fsm4 s'.state) = .ok j := by rw [h.state]; exact hj
  have hb' : s'.busy = true := h.busy.trans hb
  have hinputs : t.inputs = s.inputs :=
    keepsInputs_step hb (fun _ hr => hu.1 (List.head_eq_of_cons_eq (ht.symm.trans hr))) t hstep
  have hrest : SameParse m e (s.setTurns rest) (s'.setTurns rest) := h.setTurns rest
  cases u with
  | host td v =>
    rw [step_host hj ht (i := decodeTd td v) rfl] at hstep
    rw [step_host hj' ht' (i := decodeTd td v) rfl] at hstep'
    have hclear (htd : td = 0x70C#11) : v ≠ 2#32 := (hu.no_command htd).2
    exact hrest.of_quiet hinputs ((hostEffect_host _ td v t hstep).quiet_of_busy hb hclear)
      ((hostEffect_host _ td v t' hstep').quiet_of_busy hb' hclear)
  | otherWidth w off =>
    rw [step_otherWidth hj ht] at hstep
    rw [step_otherWidth hj' ht'] at hstep'
    obtain rfl := Host.Outcome.next.inj hstep
    obtain rfl := Host.Outcome.next.inj hstep'
    exact hrest.of_quiet hinputs (State.refuse_quiet _ w) (State.refuse_quiet _ w)
  | block =>
    rw [step_block_busy hj ht hb] at hstep
    rw [step_block_busy hj' ht' hb'] at hstep'
    exact hrest.of_block (exec_fsm_withBuffer hj h.agrees) (fun v hv => exec_fsm_quiet (by rw [hv]; exact hj)) hinputs
      hstep hstep'
  | engine ok =>
    rw [step_engine hj ht] at hstep
    rw [step_engine hj' ht'] at hstep'
    exact (hrest.setCcmDone (some ok)).of_block (f := execSCcmWait) execSCcmWait_withBuffer (fun _ _ => execSCcmWait_quiet)
      hinputs hstep hstep'
  | reset => exact absurd rfl hu.1

/-! ## Both runs, to the end of the turns -/

/-- Two machines with the same turns that tell the host the same of their parse, and run the same parse while one runs. -/
structure Twins (m : List Host.Cell) (e : Nat) (s s' : State) : Prop where
  inv : Inv s'
  turns : s'.turns = s.turns
  report : s'.report = s.report
  parse : s.busy = true → SameParse m e s s'

theorem Twins.state (h : Twins m e s s') : s'.state = s.state :=
  (congrArg (fun r => r.2.2) h.report :)

/-- After the end of a parse every turn but PARSE, CLEAR and reset leaves the report as it is (20_memory.md R53). -/
theorem report_of_ended (h : Inv s) (hs : s.state = FsmCode.done) (ht : s.turns = u :: rest) (hu : u.keepsParse)
    (hstep : step s = .next t) : t.report = s.report := by
  have hb : s.busy = false := by rw [h.status.busy, hs]; rfl
  refine report_of_step hb hs (fun _ hr => hu.1 (List.head_eq_of_cons_eq (ht.symm.trans hr))) (fun v _ hv => ?_) t hstep
  obtain rfl := List.head_eq_of_cons_eq (ht.symm.trans hv)
  exact hu.no_command rfl

/-- The same turn keeps two machines twins, in the parse and after its end. -/
theorem Twins.step (h : Twins m e s s') (hs : Attended s) (ht : s.turns = u :: rest) (hstep : step s = .next t) :
    ∃ t', step s' = .next t' ∧ Twins m e t t' := by
  have hu : u.keepsParse := hs.turns u (by rw [ht]; exact List.mem_cons_self)
  have ht' : s'.turns = u :: rest := h.turns.trans ht
  have hidle' : s'.state ≠ FsmCode.idle := h.state ▸ hs.launched
  obtain ⟨t', hstep'⟩ := answersNext_step h.inv
  have hturns : t'.turns = t.turns :=
    (onward_step h.inv hidle' ht' hu t' hstep').turns.trans (onward_step hs.inv hs.launched ht hu t hstep).turns.symm
  have hinv : Inv t' := keepsInv_step h.inv t' hstep'
  refine ⟨t', hstep', ?_⟩
  cases hb : s.busy with
  | true =>
    have hsame : SameParse m e t t' := (h.parse hb).step hs.inv.status.legal hb ht ht' hu hstep hstep'
    exact ⟨hinv, hturns, hsame.report, fun _ => hsame⟩
  | false =>
    have hdone : s.state = FsmCode.done := (hs.inv.resting hb).resolve_left hs.launched
    have hkept : t.report = s.report := report_of_ended hs.inv hdone ht hu hstep
    have hkept' : t'.report = s'.report := report_of_ended h.inv (h.state.trans hdone) ht' hu hstep'
    have hrest : t.state = FsmCode.done := (congrArg (fun r => r.2.2) hkept).trans hdone
    refine ⟨hinv, hturns, (hkept'.trans h.report).trans hkept.symm, fun hbusy => ?_⟩
    exact absurd hrest ((keepsInv_step hs.inv t hstep).busy_iff.1 hbusy).2

/-- An attended parse runs through the turns listed, and a twin of it runs along. -/
theorem Attended.run (h : Attended s) :
    ∃ t, Host.Core.run Sys2Proof.core s.turns.length s = .next t ∧ Attended t ∧ t.turns = [] ∧
      ∀ m e s', Twins m e s s' →
        ∃ t', Host.Core.run Sys2Proof.core s.turns.length s' = .next t' ∧ Twins m e t t' := by
  induction hts : s.turns generalizing s with
  | nil => exact ⟨s, rfl, h, hts, fun _ _ s' htwin => ⟨s', rfl, htwin⟩⟩
  | cons u rest ih =>
    obtain ⟨t, hstep, hturns, hnext⟩ := h.next hts
    obtain ⟨v, hrun, hlast, hnone, htwins⟩ := ih hnext hturns
    refine ⟨v, (run_succ_of_step hstep _).trans hrun, hlast, hnone, fun m e s' htwin => ?_⟩
    obtain ⟨t', hstep', htwin'⟩ := htwin.step h hts hstep
    obtain ⟨v', hrun', htwin''⟩ := htwins m e t' htwin'
    exact ⟨v', (run_succ_of_step hstep' _).trans hrun', htwin''⟩

/-! ## The launch -/

/-- The write of PARSE with BUSY = 0 (40_host_commands.md R94). -/
theorem step_parse (h : Inv s) (hb : s.busy = false) (ht : s.turns = .host 0x70C#11 1#32 :: rest) :
    step s = .next (s.setTurns rest).startParse := by
  obtain ⟨j, hj⟩ := decode_of_stateLegal h.status.legal
  calc step s = exec (.wrCmd 1#32) (s.setTurns rest) := step_host hj ht rfl
    _ = execParse (s.setTurns rest) := exec_wrCmd 1#32 _
    _ = .next (s.setTurns rest).startParse := execParse_resting (s := s.setTurns rest) hb

/-- At rest the invariant does not depend on what unwritten bytes hold. -/
theorem Inv.withEpoch (h : Inv s) (hb : s.busy = false) (e : Nat) : Inv { s with epoch := e } :=
  ⟨h.memory, { h.status with }, { h.results with }, .resting hb (h.resting hb), h.config⟩

/-- The parse a launch starts is attended. -/
theorem LaunchPremise.attended (hl : LaunchPremise s) (h : Inv s) (ht : s.turns = .host 0x70C#11 1#32 :: rest)
    (hblocks : 9 ≤ rest.count .block) (hturns : ∀ u ∈ rest, u.keepsParse) : Attended (s.setTurns rest).startParse := by
  have hanswers := hl.engine
  rw [ht, engineAnswersOnce_next ht (step_parse h hl.notBusy ht)] at hanswers
  exact {
    inv := (h.setTurns rest).startParse
    launched := by nofun
    turns := hturns
    blocks := hblocks
    answers := by simpa [Turn.isEngine] using hanswers.2 }

/-- A frame that has been written since reset reads the same whatever unwritten bytes hold (70_reset_and_hazards.md R232). -/
theorem State.frameWritten.agreesBelow (h : s.frameWritten) (e : Nat) : s.agreesBelow s.frameBuf e := by
  intro a ha
  obtain ⟨b, hbyte⟩ := Option.isSome_iff_exists.1 (h a ha)
  simp [State.frameByte, State.withBuffer, hbyte]

/-- Parses launched with other unwritten bytes are twins. -/
theorem LaunchPremise.twins (hl : LaunchPremise s) (h : Inv s) (rest : List Turn) (e : Nat) :
    Twins s.frameBuf e (s.setTurns rest).startParse (({ s with epoch := e }).setTurns rest).startParse where
  inv := ((h.withEpoch hl.notBusy e).setTurns rest).startParse
  turns := rfl
  report := rfl
  parse := fun _ => ⟨hl.frame.agreesBelow e, rfl⟩

/-- Settles O59: the parse is attended from the launch on, so it has ended when the turns have been taken, and the machine
with other unwritten bytes is its twin all the way. -/
theorem launchedParseEnds : Obligations.LaunchedParseEnds := by
  intro s rest h ht hl hblocks hturns
  obtain ⟨t, hrun, hlast, hnone, htwins⟩ := (hl.attended h ht hblocks hturns).run
  obtain ⟨hdone, houtcome⟩ := hlast.ended hnone
  refine ⟨t, (run_succ_of_step (step_parse h hl.notBusy ht) _).trans hrun, hdone, houtcome, fun e => ?_⟩
  obtain ⟨t', hrun', htwin⟩ := htwins _ e _ (hl.twins h rest e)
  have hparse : step { s with epoch := e } = .next (({ s with epoch := e }).setTurns rest).startParse :=
    step_parse (h.withEpoch hl.notBusy e) hl.notBusy ht
  have hreport := htwin.report
  simp only [State.report, Prod.mk.injEq] at hreport
  obtain ⟨hres, hdone', -⟩ := hreport
  exact ⟨t', (run_succ_of_step hparse _).trans hrun', hdone'.trans hdone, hres⟩

end Sys2Proof.Machine
end
